-- ==== Sys2Proof/Word.lean ====
section
/-! DEFINITION. The values the codec handles: bytes, the four buffer spaces, and the 12-byte packet header (00_scope.md R7,
20_memory.md R40, 30_encoding.md R64). The value of a REGW-bit operand register is a natural number: every sum over it is exact
(R7), and REGW is a parameter (R6), so the width is not in the type. `State.Inv` says that every such register stays below
2^REGW, and every step keeps that (log entry 3). -/

namespace Sys2Proof

/-- A byte: 8 bits, bit 0 the least significant (00_scope.md R7). -/
abbrev Byte := BitVec 8

/-- The four buffer spaces of 20_memory.md R40. -/
inductive Space where
  /-- TX payload: the payload of the Frame to encode. -/
  | tpay
  /-- TX packet: the Wire Packet the last successful ENCODE produced. -/
  | txbuf
  /-- RX bytes: what DECODE decodes. -/
  | rxbuf
  /-- RX payload: the payload of the last decoded Frame. -/
  | rpay
  deriving DecidableEq, Repr

/-- Bytes 4 to 11 of a packet header, the shape both formats share: `addr cmd flags x7 x8 x9 x10 checksum`
(30_encoding.md R64). -/
structure Header where
  addr : Byte
  cmd : Byte
  flags : Byte
  x7 : Byte
  x8 : Byte
  x9 : Byte
  x10 : Byte
  sum : Byte
  deriving DecidableEq, Repr

end Sys2Proof
end

