-- ==== Sys2Proof/Syntax.lean ====
section
/-! DEFINITION. The instructions (one constructor for each row of spec/opcode_table.json), the registers of 10_state.md R14, and
the events that drive the block: the host actions of 30_encoding.md R78 and the platform's reset (70_reset_and_hazards.md R180). -/

namespace Sys2Proof

/-- One constructor for each row of spec/opcode_table.json. The first four are the operations of 30_encoding.md R75. The
others are data the host delivers to the block: a packet to RXBUF (20_memory.md R54), a command byte to `TX_CMD` and a flags
byte to `TX_FLAGS` (10_state.md R21). -/
inductive Instr where
  /-- ENCODE, code 0x01 (41_encode.md R100). -/
  | encode
  /-- DECODE, code 0x02 (42_decode.md R120). -/
  | decode
  /-- DECODE.NV, code 0x12 (42_decode.md R121). -/
  | decodeNV
  /-- PACK, code 0x03 (43_pack_rgbw.md R141). -/
  | pack
  /-- PKT.A, the short packet (30_encoding.md R62): flags bit 7 is 0, `unnamed` is flags bits 6:1 and `rep` flags bit 0. -/
  | pktA (addr cmd : Byte) (unnamed : BitVec 6) (rep : Bool) (p0 p1 p2 p3 : Byte) (sum : Byte)
  /-- PKT.B, the long packet (30_encoding.md R63): flags bit 7 is 1; the length field is the number of body bytes. -/
  | pktB (addr cmd : Byte) (unnamed : BitVec 6) (rep : Bool) (offset : BitVec 16) (sum : Byte) (body : List Byte)
  /-- CMD_NOOP, base command 0, with or without the fade modifier (44_wire_fields.md R152). -/
  | cmdNoop (fade : Bool)
  /-- CMD_PATTERN_SIMPLE, base command 1 (44_wire_fields.md R153). -/
  | cmdPatternSimple (fade : Bool)
  /-- CMD_ROTATE, base command 2 (44_wire_fields.md R154). -/
  | cmdRotate (fade : Bool)
  /-- CMD.FADE, a command byte with bit 4 set; `rest` is its other seven bits, bits 7:5 then 3:0 (44_wire_fields.md R155). -/
  | cmdFade (rest : BitVec 7)
  /-- FLAGS, the flags byte: bit 7 `LONG`, bits 6:1, bit 0 `REPEAT` (44_wire_fields.md R156). -/
  | flags (long : Bool) (unnamed : BitVec 6) (rep : Bool)
  deriving DecidableEq, Repr

/-- The 18 registers of 10_state.md R14. -/
inductive Reg where
  | op | status | txAddr | txCmd | txFlags | txPlen | txPoff | txCtrl | txLen | color | packPtr
  | rxLen | rxAddr | rxCmd | rxFlags | rxPlen | rxPoff | rxInfo
  deriving DecidableEq, Repr

/-- What can happen to the block: one host action (30_encoding.md R78), or the platform's reset. -/
inductive Event where
  /-- `WR <reg>, <value>`: write the register of that number. A write of number 0 starts an operation. -/
  | wr (num : Nat) (v : Nat)
  /-- `RD <reg>`: read the register of that number. -/
  | rd (num : Nat)
  /-- `WB <space>[<i>], <byte>`: write one buffer byte. -/
  | wb (sp : Space) (i : Nat) (b : Byte)
  /-- `RB <space>[<i>]`: read one buffer byte. -/
  | rb (sp : Space) (i : Nat)
  /-- The received bytes are placed in RXBUF from index 0 upward and `RX_LEN` is set to their count (20_memory.md R54):
  `FILL RXBUF[0], bytes` and `WR RX_LEN, count` in one event. DESIGN CHOICE, log entry 8. -/
  | receive (bytes : List Byte)
  /-- The platform applies reset (70_reset_and_hazards.md R180). -/
  | reset
  deriving DecidableEq, Repr

end Sys2Proof
end

