-- ==== Sys2Proof/WellFormed.lean ====
section
/-! DEFINITION. Which terms of `Instr` stand for words of spec/opcode_table.json. -/

namespace Sys2Proof

/-- The command byte `rest` spells without its fade bit is one of the three named base commands (44_wire_fields.md R151), so
that the byte with the fade bit is CMD_NOOP, CMD_PATTERN_SIMPLE or CMD_ROTATE with fade (R155). -/
def restIsNamed (rest : BitVec 7) : Bool := decide (rest.toNat ≤ 2)

/-- A packet's body has a 16-bit length (30_encoding.md R63), and a CMD.FADE term is not another spelling of a named command
with fade (DESIGN CHOICE, log entry 9). Every other term is a word of the table. -/
def Instr.wellFormed : Instr → Bool
  | .encode => true
  | .decode => true
  | .decodeNV => true
  | .pack => true
  | .pktA .. => true
  | .pktB _ _ _ _ _ _ body => decide (body.length ≤ 65535)
  | .cmdNoop _ => true
  | .cmdPatternSimple _ => true
  | .cmdRotate _ => true
  | .cmdFade rest => !restIsNamed rest
  | .flags .. => true

end Sys2Proof
end

