-- ==== Sys2Proof/Decode.lean ====
section
/-! DEFINITION. Register numbers (10_state.md R14), the byte-order and field helpers (00_scope.md R7, R8), the decoder from host
events to table rows, rejecting by name, and the encoder, written from the same tables (30_encoding.md R62, R63, R75). -/

namespace Sys2Proof

/-! ### Registers -/

/-- The register number (10_state.md R14). -/
def Reg.num : Reg → Nat
  | .op => 0x00
  | .status => 0x01
  | .txAddr => 0x02
  | .txCmd => 0x03
  | .txFlags => 0x04
  | .txPlen => 0x05
  | .txPoff => 0x06
  | .txCtrl => 0x07
  | .txLen => 0x08
  | .color => 0x09
  | .packPtr => 0x0A
  | .rxLen => 0x10
  | .rxAddr => 0x11
  | .rxCmd => 0x12
  | .rxFlags => 0x13
  | .rxPlen => 0x14
  | .rxPoff => 0x15
  | .rxInfo => 0x16

/-- The register of a number; none for the unused numbers 0x0B to 0x0F and 0x17 upward (10_state.md R14). -/
def Reg.ofNum (n : Nat) : Option Reg :=
  if n = 0x00 then some .op
  else if n = 0x01 then some .status
  else if n = 0x02 then some .txAddr
  else if n = 0x03 then some .txCmd
  else if n = 0x04 then some .txFlags
  else if n = 0x05 then some .txPlen
  else if n = 0x06 then some .txPoff
  else if n = 0x07 then some .txCtrl
  else if n = 0x08 then some .txLen
  else if n = 0x09 then some .color
  else if n = 0x0A then some .packPtr
  else if n = 0x10 then some .rxLen
  else if n = 0x11 then some .rxAddr
  else if n = 0x12 then some .rxCmd
  else if n = 0x13 then some .rxFlags
  else if n = 0x14 then some .rxPlen
  else if n = 0x15 then some .rxPoff
  else if n = 0x16 then some .rxInfo
  else none

/-! ### Bytes and fields -/

/-- `v[7:0]` (00_scope.md R7). -/
def loByte (v : Nat) : Byte := BitVec.ofNat 8 v

/-- `v[15:8]` (00_scope.md R7). -/
def hiByte (v : Nat) : Byte := BitVec.ofNat 8 (v / 256)

/-- `le16(v)`: the low byte first (00_scope.md R7). -/
def le16 (v : Nat) : List Byte := [loByte v, hiByte v]

/-- `unle16(b0, b1)` = b0 + 256*b1, 16 bits wide (00_scope.md R7). -/
def unle16 (b0 b1 : Byte) : BitVec 16 := b1 ++ b0

/-- The start marker `00 55 AA FF` (30_encoding.md R61). -/
def marker : List Byte := [0x00, 0x55, 0xAA, 0xFF]

/-- `LONG`: flags bit 7, long-payload-present (00_scope.md R8). -/
def longBit : Byte := 0x80

/-- `FADE`: command bit 4, the fade modifier (00_scope.md R8). -/
def fadeBit : Byte := 0x10

/-- A flags byte from its fields: bit 7, bits 6:1, bit 0 (44_wire_fields.md R156). -/
def flagsByte (long : Bool) (unnamed : BitVec 6) (rep : Bool) : Byte :=
  BitVec.ofBool long ++ unnamed ++ BitVec.ofBool rep

/-- A command byte: `base | (fade ? 0x10 : 0)` (44_wire_fields.md R151). -/
def cmdByte (base : Byte) (fade : Bool) : Byte := base ||| (if fade then fadeBit else 0)

/-- A command byte with bit 4 set, from its other seven bits (44_wire_fields.md R155). -/
def fadeByte (rest : BitVec 7) : Byte := rest.extractLsb' 4 3 ++ (1#1) ++ rest.extractLsb' 0 4

/-- The seven bits of a command byte other than bit 4. -/
def cmdRest (b : Byte) : BitVec 7 := b.extractLsb' 5 3 ++ b.extractLsb' 0 4

/-- Bytes 4 to 11 in packet order (30_encoding.md R64). -/
def Header.bytes (h : Header) : List Byte := [h.addr, h.cmd, h.flags, h.x7, h.x8, h.x9, h.x10, h.sum]

/-- The format a header is read in: flags bit 7 and nothing else (30_encoding.md R66). -/
def Header.long (h : Header) : Bool := h.flags.getLsbD 7

/-- Offsets 7 and 8 read as the payload length (30_encoding.md R63). -/
def Header.length (h : Header) : BitVec 16 := unle16 h.x7 h.x8

/-- Offsets 9 and 10 read as the payload offset (30_encoding.md R63). -/
def Header.offset (h : Header) : BitVec 16 := unle16 h.x9 h.x10

/-! ### From bytes to table rows -/

/-- Why an event is no row of spec/opcode_table.json. -/
inductive Reject where
  /-- A reserved operation code (30_encoding.md R77). -/
  | reservedOp (code : Byte)
  /-- A command byte the table has no row for: bit 4 clear and the base not 0, 1 or 2 (44_wire_fields.md R151). -/
  | unnamedCommand (b : Byte)
  /-- A value above 255 written to `TX_CMD` or `TX_FLAGS`: no packet field (41_encode.md R103). -/
  | notAByte (v : Nat)
  /-- Fewer than 12 received bytes (30_encoding.md R60). -/
  | noHeader
  /-- The first four received bytes are not the start marker (30_encoding.md R61). -/
  | noMarker
  /-- The number of received bytes is not 12, or in format B 12 + payloadLength (30_encoding.md R66). -/
  | notItsLength
  /-- A host action that carries no row of the table. -/
  | noRow
  deriving DecidableEq, Repr

/-- An operation code (30_encoding.md R75, R77). -/
def decodeOp (b : Byte) : Except Reject Instr :=
  if b = 0x01 then .ok .encode
  else if b = 0x02 then .ok .decode
  else if b = 0x12 then .ok .decodeNV
  else if b = 0x03 then .ok .pack
  else .error (.reservedOp b)

/-- A command byte: a named base with or without fade, else any byte with bit 4 set (44_wire_fields.md R151 to R155). -/
def decodeCmd (b : Byte) : Except Reject Instr :=
  if b &&& ~~~fadeBit = 0x00 then .ok (.cmdNoop (b.getLsbD 4))
  else if b &&& ~~~fadeBit = 0x01 then .ok (.cmdPatternSimple (b.getLsbD 4))
  else if b &&& ~~~fadeBit = 0x02 then .ok (.cmdRotate (b.getLsbD 4))
  else if b.getLsbD 4 then .ok (.cmdFade (cmdRest b))
  else .error (.unnamedCommand b)

/-- A flags byte: every byte is one (44_wire_fields.md R156). -/
def decodeFlags (b : Byte) : Instr := .flags (b.getLsbD 7) (b.extractLsb' 1 6) (b.getLsbD 0)

/-- A whole Wire Packet, nothing after it (30_encoding.md R62, R63, R66). -/
def decodePacket : List Byte → Except Reject Instr
  | m0 :: m1 :: m2 :: m3 :: a :: c :: f :: x7 :: x8 :: x9 :: x10 :: k :: body =>
    if [m0, m1, m2, m3] ≠ marker then .error .noMarker
    else if f.getLsbD 7 then
      if body.length = (unle16 x7 x8).toNat then
        .ok (.pktB a c (f.extractLsb' 1 6) (f.getLsbD 0) (unle16 x9 x10) k body)
      else .error .notItsLength
    else if body = [] then .ok (.pktA a c (f.extractLsb' 1 6) (f.getLsbD 0) x7 x8 x9 x10 k)
    else .error .notItsLength
  | _ => .error .noHeader

/-- The table row an event carries: a write of `OP` its operation (bits above bit 7 ignored, 30_encoding.md R76), a write of
`TX_CMD` or `TX_FLAGS` its byte, received bytes their packet. Total: every other event is rejected by name. -/
def decodeEvent : Event → Except Reject Instr
  | .wr n v =>
    match Reg.ofNum n with
    | some .op => decodeOp (loByte v)
    | some .txCmd => if v ≤ 255 then decodeCmd (loByte v) else .error (.notAByte v)
    | some .txFlags => if v ≤ 255 then .ok (decodeFlags (loByte v)) else .error (.notAByte v)
    | _ => .error .noRow
  | .receive bs => decodePacket bs
  | .rd _ => .error .noRow
  | .wb .. => .error .noRow
  | .rb .. => .error .noRow
  | .reset => .error .noRow

/-! ### From table rows to bytes -/

/-- The bytes of a PKT.A (30_encoding.md R62). -/
def pktABytes (a c : Byte) (u : BitVec 6) (r : Bool) (p0 p1 p2 p3 k : Byte) : List Byte :=
  marker ++ [a, c, flagsByte false u r, p0, p1, p2, p3, k]

/-- The bytes of a PKT.B (30_encoding.md R63). -/
def pktBBytes (a c : Byte) (u : BitVec 6) (r : Bool) (off : BitVec 16) (k : Byte) (body : List Byte) : List Byte :=
  marker ++ [a, c, flagsByte true u r] ++ le16 body.length ++ le16 off.toNat ++ [k] ++ body

/-- The event that carries an instruction: the row's bytes, delivered where the host delivers them. -/
def encode : Instr → Event
  | .encode => .wr Reg.op.num 0x01
  | .decode => .wr Reg.op.num 0x02
  | .decodeNV => .wr Reg.op.num 0x12
  | .pack => .wr Reg.op.num 0x03
  | .pktA a c u r p0 p1 p2 p3 k => .receive (pktABytes a c u r p0 p1 p2 p3 k)
  | .pktB a c u r off k body => .receive (pktBBytes a c u r off k body)
  | .cmdNoop d => .wr Reg.txCmd.num (cmdByte 0x00 d).toNat
  | .cmdPatternSimple d => .wr Reg.txCmd.num (cmdByte 0x01 d).toNat
  | .cmdRotate d => .wr Reg.txCmd.num (cmdByte 0x02 d).toNat
  | .cmdFade rest => .wr Reg.txCmd.num (fadeByte rest).toNat
  | .flags l u r => .wr Reg.txFlags.num (flagsByte l u r).toNat

/-! ### A word of the opcode table, without its place -/

/-- The event that carries one byte of the table. The table's OP, CMD, CMD-MODIFIER and FLAGS rows are told apart by the
register the byte is written to, which a bare byte does not say: it goes to the first of `OP`, `TX_CMD`, `TX_FLAGS` at which
it is a row. DESIGN CHOICE, log entry 10. -/
def byteEvent (b : Byte) : Event :=
  match decodeOp b with
  | .ok _ => .wr Reg.op.num b.toNat
  | .error _ =>
    match decodeCmd b with
    | .ok _ => .wr Reg.txCmd.num b.toNat
    | .error _ => .wr Reg.txFlags.num b.toNat

/-- The `n` lowest bytes of `w`, the least significant first. -/
def bytesOf : Nat → Nat → List Byte
  | 0, _ => []
  | n + 1, w => loByte w :: bytesOf n (w / 256)

/-- A long header is followed by as many zero bytes as its length field says. -/
def withZeroBody (hs : List Byte) : List Byte :=
  match hs with
  | _ :: _ :: _ :: _ :: _ :: _ :: f :: x7 :: x8 :: _ =>
    if f.getLsbD 7 then hs ++ List.replicate (12 + (unle16 x7 x8).toNat - hs.length) 0 else hs
  | _ => hs

/-- The event that carries a table word: a byte, or the bytes of a packet. The table writes a packet with offset 0 as the most
significant byte, every other word has its first byte least significant: whichever reading starts with the marker is taken,
and where both do, the one with the first byte least significant. DESIGN CHOICE, log entry 10. -/
def tableEvent (nbits w : Nat) : Event :=
  if nbits ≤ 8 then byteEvent (loByte w)
  else
    let bs := bytesOf ((nbits + 7) / 8) w
    .receive (withZeroBody (if bs.take 4 = marker then bs else bs.reverse))

/-- The instruction the decoder reads from a word of the opcode table. -/
def decodeTableWord (nbits w : Nat) : Option Instr :=
  match decodeEvent (tableEvent nbits w) with
  | .ok i => some i
  | .error _ => none

end Sys2Proof
end

