-- ==== Sys2Proof/Config.lean ====
section
/-! DEFINITION. The parameters of 00_scope.md R6, and the values the spec leaves open (free values: constants with no body). -/

namespace Sys2Proof

/-- Which failure DECODE reports when the checksum and the body length both fail (00_scope.md R6, decision D3). -/
inductive CheckOrder where
  | csumFirst
  | truncFirst
  deriving DecidableEq, Repr

/-- The configuration record of 00_scope.md R6. `TXBUF_SIZE` is no field: R6 fixes it to 12 + PBUF_SIZE. -/
structure Config where
  /-- REGW: width in bits of every host-writable operand register. -/
  regw : Nat
  /-- PBUF_SIZE: bytes in TPAY and in RPAY. -/
  pbufSize : Nat
  /-- RBUF_SIZE: bytes in RXBUF. -/
  rbufSize : Nat
  /-- DEC_CHECK_ORDER. -/
  checkOrder : CheckOrder
  deriving DecidableEq, Repr

/-- The defaults of 00_scope.md R6. -/
def Config.default : Config :=
  { regw := 32, pbufSize := 65535, rbufSize := 65547, checkOrder := .csumFirst }

/-- The constraints of 00_scope.md R6 on the parameters. -/
abbrev Config.ok (c : Config) : Prop :=
  17 ≤ c.regw ∧ 4 ≤ c.pbufSize ∧ c.pbufSize ≤ 65535 ∧ 12 ≤ c.rbufSize ∧ c.rbufSize ≤ 12 + c.pbufSize

/-- FREE VALUE. What a buffer byte holds that nothing has written since the reset before it (20_memory.md R46,
93_implementation_defined.md U1: any value, the same at every read). The first argument counts the resets so far, so the
bytes after a second reset need not be those after the first. Log entry 4. -/
opaque Config.freeByte : Nat → Space → Nat → Byte

/-- FREE VALUE. REG_BASE, OPEN in 00_scope.md R6: where the register file sits on the host's bus. Log entry 14. -/
opaque Config.regBase : Nat

/-- FREE VALUE. The platform's stride between two registers (10_state.md R14). Log entry 14. -/
opaque Config.regStride : Nat

/-- FREE VALUE. SER_FORMAT, OPEN in 00_scope.md R6: the bits of one byte on the serial line. Log entry 14. -/
opaque Config.serFormat : Byte → List Bool

end Sys2Proof
end

