-- ==== Sys2Proof/Machine/State.lean ====
section
/-! DEFINITION. The state of the block (10_state.md R10, R14; 20_memory.md R40), its state after reset (70_reset_and_hazards.md
R181), and the reasons a step can stop. -/

namespace Sys2Proof.Machine

/-- `STATUS.ERR` as a five-valued type (10_state.md R17; 93_implementation_defined.md U5). -/
inductive Err where
  /-- 0: the operation succeeded. -/
  | none
  /-- 1: InvalidFrame (60_exceptions.md R161). -/
  | invalidFrame
  /-- 2: TruncatedFrame (60_exceptions.md R162). -/
  | truncatedFrame
  /-- 3: ChecksumMismatch (60_exceptions.md R163). -/
  | checksumMismatch
  /-- 4: IllegalOp (60_exceptions.md R164). -/
  | illegalOp
  deriving DecidableEq, Repr

/-- What a write to `OP` starts: one of the four operations, or nothing, for a reserved code (30_encoding.md R75, R77). -/
inductive Operation where
  | encode
  | decode
  | decodeNV
  | pack
  | reserved
  deriving DecidableEq, Repr

/-- The model's own stops inside an operation. -/
inductive Fault where
  /-- Raised by ENCODE, DECODE, DECODE.NV and PACK when they would touch an index outside a buffer. It happens only where the
  configuration breaks the constraints of 00_scope.md R6 (safe: the spec says nothing of such a block). Log entry 16. -/
  | outsideBuffer (sp : Space)
  deriving DecidableEq, Repr

/-- Actions the spec has no meaning for. -/
inductive Refusal where
  /-- Raised by no meaning: an instruction that has none yet (safe). -/
  | notModelled (mnemonic : String)
  /-- Raised by `RB`, `WB` and by received bytes: an index at or beyond the buffer's size is no host action
  (20_memory.md R41, 93_implementation_defined.md U14; safe). Log entry 11. -/
  | noSuchByte (sp : Space)
  /-- Raised by `WB`: the host cannot write TXBUF or RPAY (20_memory.md R42, 93_implementation_defined.md U14; safe). Log entry 11. -/
  | resultBuffer (sp : Space)
  /-- Raised by `WR`: a value too wide for the register file is no host action (10_state.md R13; safe). Log entry 11. -/
  | valueTooWide
  deriving DecidableEq, Repr

/-- A buffer: the bytes written since reset, as cells at strictly rising indices. An index with no cell has not been written,
and reads as a free value (20_memory.md R46; log entry 4). -/
abbrev Memory := List Host.Cell

/-- The state: the 17 state-holding registers (10_state.md R10, R14), the four buffers (20_memory.md R40), the parameters
(00_scope.md R6), and three fields of the model's own: `epoch`, `events`, `replies`. -/
structure State where
  /-- The parameters, fixed for the machine: no step changes them (log entry 3). -/
  cfg : Config
  /-- `STATUS.ERR`. -/
  err : Err
  /-- `STATUS.TX_VALID`. -/
  txValid : Bool
  /-- `STATUS.RX_VALID`. -/
  rxValid : Bool
  txAddr : Nat
  txCmd : Nat
  txFlags : Nat
  txPlen : Nat
  txPoff : Nat
  /-- `TX_CTRL.POFF_VALID`. -/
  txCtrl : Bool
  txLen : BitVec 17
  color : BitVec 32
  packPtr : Nat
  rxLen : Nat
  rxAddr : Byte
  rxCmd : Byte
  rxFlags : Byte
  rxPlen : BitVec 16
  rxPoff : BitVec 16
  /-- `RX_INFO.POFF_VALID`. -/
  rxInfo : Bool
  tpay : Memory
  txbuf : Memory
  rxbuf : Memory
  rpay : Memory
  /-- The model's own: the number of resets so far, which numbers the free values of the buffers (log entry 5). -/
  epoch : Nat
  /-- The model's own: what the host does next, oldest first (log entry 1). -/
  events : List Event
  /-- The model's own: the values the host has read, newest first (log entry 6). -/
  replies : List Nat
  deriving DecidableEq, Repr

/-- The state after reset for given parameters: every register 0, no buffer byte known (70_reset_and_hazards.md R181). -/
def State.afterReset (cfg : Config) (epoch : Nat) (events : List Event) (replies : List Nat) : State :=
  { cfg, epoch, events, replies
    err := .none, txValid := false, rxValid := false
    txAddr := 0, txCmd := 0, txFlags := 0, txPlen := 0, txPoff := 0, txCtrl := false
    txLen := 0, color := 0, packPtr := 0
    rxLen := 0, rxAddr := 0, rxCmd := 0, rxFlags := 0, rxPlen := 0, rxPoff := 0, rxInfo := false
    tpay := [], txbuf := [], rxbuf := [], rpay := [] }

/-- The machine right after its first reset, with the default parameters (00_scope.md R6) and nothing for it to do. -/
def State.reset : State := State.afterReset Config.default 0 [] []

end Sys2Proof.Machine
end

