-- ==== Sys2Proof/Machine/Ops.lean ====
section
/-! DEFINITION. The shared operations: reading and writing the buffers (20_memory.md R40 to R46), and the end of a failed
operation (60_exceptions.md R165), which is what this block has instead of taking an exception. There is no return from one:
nothing is saved and nothing has to be restored (60_exceptions.md R168). -/

namespace Sys2Proof.Machine

/-! ### Buffers as data -/

/-- The byte written at an index, if one was written since reset. -/
def Memory.read : Memory → Nat → Option Byte
  | [], _ => none
  | (k, b) :: rest, i => if k = i then some b else Memory.read rest i

/-- Cells for consecutive indices from `i` upward. -/
def Memory.number : Nat → List Byte → Memory
  | _, [] => []
  | i, b :: bs => (i, b) :: Memory.number (i + 1) bs

/-- Write bytes at the indices `i`, `i+1`, …; every other index is left as it was. -/
def Memory.write (m : Memory) (i : Nat) (bs : List Byte) : Memory :=
  m.filter (fun c => c.1 < i) ++ Memory.number i bs ++ m.filter (fun c => i + bs.length ≤ c.1)

/-- The canonical form: indices strictly rising. -/
abbrev Memory.wf (m : Memory) : Prop := m.Pairwise (fun c d => c.1 < d.1)

/-- No cell lies outside a buffer of the given size. -/
abbrev Memory.within (m : Memory) (size : Nat) : Prop := ∀ c ∈ m, c.1 < size

/-! ### Buffers of the block -/

/-- The size of a space in bytes (20_memory.md R40). -/
def spaceSize (cfg : Config) : Space → Nat
  | .tpay => cfg.pbufSize
  | .txbuf => 12 + cfg.pbufSize
  | .rxbuf => cfg.rbufSize
  | .rpay => cfg.pbufSize

/-- The contents of a space. -/
def State.mem (s : State) : Space → Memory
  | .tpay => s.tpay
  | .txbuf => s.txbuf
  | .rxbuf => s.rxbuf
  | .rpay => s.rpay

/-- Replace the contents of a space. -/
def State.setMem (s : State) (sp : Space) (m : Memory) : State :=
  match sp with
  | .tpay => { s with tpay := m }
  | .txbuf => { s with txbuf := m }
  | .rxbuf => { s with rxbuf := m }
  | .rpay => { s with rpay := m }

/-- `MemRead(space, i, 1)`: the byte written at `i`, or, if none was written since reset, a free value: any byte, the same at
every read (20_memory.md R44, R46; 93_implementation_defined.md U1). -/
def State.byte (s : State) (sp : Space) (i : Nat) : Byte :=
  match (s.mem sp).read i with
  | some b => b
  | none => Config.freeByte s.epoch sp i

/-- The bytes `i` to `i+n-1` of a space. -/
def State.bytes (s : State) (sp : Space) (i n : Nat) : List Byte :=
  (List.range n).map (fun k => s.byte sp (i + k))

/-- Write bytes of a space from index `i` upward. -/
def State.store (s : State) (sp : Space) (i : Nat) (bs : List Byte) : State :=
  s.setMem sp ((s.mem sp).write i bs)

/-- The indices `i` to `i+n-1` lie in the space (20_memory.md R41). -/
def inSpace (cfg : Config) (sp : Space) (i n : Nat) : Bool := decide (i + n ≤ spaceSize cfg sp)

/-- Go on only if the `n` bytes from `i` lie in the space. -/
def touching (s : State) (sp : Space) (i n : Nat) (go : Host.Outcome State Fault Refusal) : Host.Outcome State Fault Refusal :=
  if inSpace s.cfg sp i n then go else .fault (.outsideBuffer sp)

/-! ### The end of an operation -/

/-- A failed operation clears `TX_VALID` if it was an ENCODE that raised InvalidFrame, `RX_VALID` if it was a DECODE or DECODE.NV
that raised TruncatedFrame or ChecksumMismatch, and neither in every other row of the table (60_exceptions.md R165). -/
def clearsTxValid : Operation → Err → Bool
  | .encode, .invalidFrame => true
  | _, _ => false

/-- See `clearsTxValid`. -/
def clearsRxValid : Operation → Err → Bool
  | .decode, .truncatedFrame => true
  | .decode, .checksumMismatch => true
  | .decodeNV, .truncatedFrame => true
  | .decodeNV, .checksumMismatch => true
  | _, _ => false

/-- `raise <Error>`: the operation ends, and nothing but `STATUS` has changed (60_exceptions.md R165). -/
def raise (op : Operation) (e : Err) (s : State) : State :=
  { s with
    err := e
    txValid := s.txValid && !clearsTxValid op e
    rxValid := s.rxValid && !clearsRxValid op e }

end Sys2Proof.Machine
end

