-- ==== Sys2Proof/Machine/Flags.lean ====
section
/-! DEFINITION. The computations that decide a flag or an outcome: the `STATUS` word (10_state.md R17), the checksum generator
(40_checksum.md R90, R93), the range tests of ENCODE and PACK (41_encode.md R103, 43_pack_rgbw.md R143), and the tests of
DECODE with their order (42_decode.md R120, R124; 60_exceptions.md R167). -/

namespace Sys2Proof.Machine

/-- The number of an error (10_state.md R17). -/
def Err.code : Err → Nat
  | .none => 0
  | .invalidFrame => 1
  | .truncatedFrame => 2
  | .checksumMismatch => 3
  | .illegalOp => 4

/-- The `STATUS` word: `ERR` in bits 2:0, `TX_VALID` in bit 4, `RX_VALID` in bit 5, every other bit 0 (10_state.md R17). -/
def statusWord (s : State) : Nat := s.err.code + 16 * s.txValid.toNat + 32 * s.rxValid.toNat

/-- `xor7` (40_checksum.md R90). -/
def xor7 (b4 b5 b6 b7 b8 b9 b10 : Byte) : Byte := b4 ^^^ b5 ^^^ b6 ^^^ b7 ^^^ b8 ^^^ b9 ^^^ b10

/-- The checksum of a header: its bytes 4 to 10, in either format (40_checksum.md R93). -/
def headerSum (h : Header) : Byte := xor7 h.addr h.cmd h.flags h.x7 h.x8 h.x9 h.x10

/-- `csum_ok` (40_checksum.md R93). -/
def csumOk (h : Header) : Bool := headerSum h == h.sum

/-- ENCODE's validity test (41_encode.md R103). `TX_POFF` is looked at only when there is an offset. -/
def frameInvalid (s : State) : Bool :=
  decide (255 < s.txAddr) || decide (255 < s.txCmd) || decide (255 < s.txFlags) || decide (65535 < s.txPlen)
    || (s.txCtrl && decide (65535 < s.txPoff)) || decide (s.cfg.pbufSize < s.txPlen)

/-- ENCODE's mode selection: long for more than 4 payload bytes or an explicit offset, whatever the caller's flags say
(30_encoding.md R67, 41_encode.md R104). -/
def longMode (s : State) : Bool := decide (4 < s.txPlen) || s.txCtrl

/-- The final flags byte: bit 7 is or-ed in for long mode and never cleared (41_encode.md R102, R112). -/
def finalFlags (s : State) : Byte := loByte s.txFlags ||| (if longMode s then longBit else 0)

/-- PACK's range test, on the exact sum (43_pack_rgbw.md R143). -/
def packInvalid (s : State) : Bool := decide (s.cfg.pbufSize < s.packPtr + 4)

/-- The announced body is longer than the received bytes (42_decode.md R125). -/
def bodyShort (n : Nat) (h : Header) : Bool := h.long && decide (n < 12 + h.length.toNat)

/-- The checksum test fails; never when it is not made (42_decode.md R121, R124). -/
def sumBad (verify : Bool) (h : Header) : Bool := verify && !csumOk h

/-- The error of a decode that has its 12 header bytes, in the order `DEC_CHECK_ORDER` sets (60_exceptions.md R167). -/
def decodeError (order : CheckOrder) (bad short : Bool) : Option Err :=
  match order with
  | .csumFirst => if bad then some .checksumMismatch else if short then some .truncatedFrame else none
  | .truncFirst => if short then some .truncatedFrame else if bad then some .checksumMismatch else none

end Sys2Proof.Machine
end

