-- ==== Sys2Proof/Machine/Operands.lean ====
section
/-! DEFINITION. The operand forms: the register file as the host reads and writes it (10_state.md R13 to R19), the payload, header
and colour operands of the operations, and the host's actions on the buffers (20_memory.md R42). -/

namespace Sys2Proof.Machine

/-! ### The register file -/

/-- The bus address of a register: REG_BASE plus a stride the platform fixes (10_state.md R14). Both are open, so nothing else
reads this. Log entry 14. -/
def busAddress (r : Reg) : Nat := Config.regBase + r.num * Config.regStride

/-- What a register reads as, zero-extended (10_state.md R14). `OP` stores nothing and reads 0 (R13, R15). `COLOR` reads all its
32 bits (R18) also where REGW is below 32, which R14 and R18 leave open (DESIGN CHOICE, log entry 12). -/
def regRead (s : State) : Reg → Nat
  | .op => 0
  | .status => statusWord s
  | .txAddr => s.txAddr
  | .txCmd => s.txCmd
  | .txFlags => s.txFlags
  | .txPlen => s.txPlen
  | .txPoff => s.txPoff
  | .txCtrl => s.txCtrl.toNat
  | .txLen => s.txLen.toNat
  | .color => s.color.toNat
  | .packPtr => s.packPtr
  | .rxLen => s.rxLen
  | .rxAddr => s.rxAddr.toNat
  | .rxCmd => s.rxCmd.toNat
  | .rxFlags => s.rxFlags.toNat
  | .rxPlen => s.rxPlen.toNat
  | .rxPoff => s.rxPoff.toNat
  | .rxInfo => s.rxInfo.toNat

/-- A read of a register number; an unused number reads 0 (10_state.md R14). -/
def readNum (s : State) (n : Nat) : Nat :=
  match Reg.ofNum n with
  | some r => regRead s r
  | none => 0

/-- A host write of a register other than `OP`: the value is stored unchanged, but into reserved bits, which stay 0; a read-only
register takes no write (10_state.md R13, R16, R18). -/
def regWrite (s : State) (v : Nat) : Reg → State
  | .txAddr => { s with txAddr := v }
  | .txCmd => { s with txCmd := v }
  | .txFlags => { s with txFlags := v }
  | .txPlen => { s with txPlen := v }
  | .txPoff => { s with txPoff := v }
  | .txCtrl => { s with txCtrl := v.testBit 0 }
  | .color => { s with color := BitVec.ofNat 32 v }
  | .packPtr => { s with packPtr := v }
  | .rxLen => { s with rxLen := v }
  | .op => s
  | .status => s
  | .txLen => s
  | .rxAddr => s
  | .rxCmd => s
  | .rxFlags => s
  | .rxPlen => s
  | .rxPoff => s
  | .rxInfo => s

/-- A host write of a register number other than `OP`; an unused number takes no write (10_state.md R14). -/
def writeNum (s : State) (n : Nat) (v : Nat) : State :=
  match Reg.ofNum n with
  | some r => regWrite s v r
  | none => s

/-- The values the host may write to a register number: those below 2^REGW (10_state.md R13), and for `COLOR`, which has 32 bits
whatever REGW is (R18), every 32-bit value too (DESIGN CHOICE, log entry 12). -/
def valueFits (cfg : Config) (n : Nat) (v : Nat) : Bool :=
  decide (v < 2 ^ cfg.regw) || (decide (n = Reg.color.num) && decide (v < 2 ^ 32))

/-! ### Operands of the operations -/

/-- The offset field of a long packet: the offset, or 0 if there is none (41_encode.md R106). -/
def offsetField (s : State) : Nat := if s.txCtrl then s.txPoff else 0

/-- The payload bytes of a short packet: the first `n` as they stand in TPAY, zero bytes on the right (41_encode.md R105). -/
def shortPayload (s : State) (i : Nat) : Byte := if i < s.txPlen then s.byte .tpay i else 0

/-- A header of a packet with its checksum (41_encode.md R100). -/
def sealHeader (a c f x7 x8 x9 x10 : Byte) : Header :=
  { addr := a, cmd := c, flags := f, x7 := x7, x8 := x8, x9 := x9, x10 := x10, sum := xor7 a c f x7 x8 x9 x10 }

/-- The header ENCODE writes in short mode (41_encode.md R105). -/
def shortHeader (s : State) : Header :=
  sealHeader (loByte s.txAddr) (loByte s.txCmd) (finalFlags s)
    (shortPayload s 0) (shortPayload s 1) (shortPayload s 2) (shortPayload s 3)

/-- The header ENCODE writes in long mode (41_encode.md R106). -/
def longHeader (s : State) : Header :=
  sealHeader (loByte s.txAddr) (loByte s.txCmd) (finalFlags s)
    (loByte s.txPlen) (hiByte s.txPlen) (loByte (offsetField s)) (hiByte (offsetField s))

/-- The header DECODE reads: RXBUF[4 .. 11]; the marker bytes are not looked at (42_decode.md R123). -/
def rxHeader (s : State) : Header :=
  { addr := s.byte .rxbuf 4, cmd := s.byte .rxbuf 5, flags := s.byte .rxbuf 6, x7 := s.byte .rxbuf 7, x8 := s.byte .rxbuf 8
    x9 := s.byte .rxbuf 9, x10 := s.byte .rxbuf 10, sum := s.byte .rxbuf 11 }

/-- The RGBW helper encoding of the `COLOR` register: W, B, G, R (43_pack_rgbw.md R140; 10_state.md R18). -/
def rgbwBytes (color : BitVec 32) : List Byte :=
  [color.extractLsb' 24 8, color.extractLsb' 16 8, color.extractLsb' 8 8, color.extractLsb' 0 8]

/-! ### The host and the buffers -/

/-- Received bytes are placed in RXBUF from index 0 upward and `RX_LEN` is set to their count (20_memory.md R54). Bytes that do
not fit RXBUF cannot be placed: an index outside the space is no host action (R41). -/
def placeReceived (s : State) (bs : List Byte) : Host.Outcome State Fault Refusal :=
  if inSpace s.cfg .rxbuf 0 bs.length then .next { s.store .rxbuf 0 bs with rxLen := bs.length }
  else .refused (.noSuchByte .rxbuf)

/-- `RB`: any byte of any space (20_memory.md R42). -/
def hostRead (s : State) (sp : Space) (i : Nat) : Host.Outcome State Fault Refusal :=
  if inSpace s.cfg sp i 1 then .next { s with replies := (s.byte sp i).toNat :: s.replies }
  else .refused (.noSuchByte sp)

/-- The spaces the host may write (20_memory.md R42). -/
def hostWritable : Space → Bool
  | .tpay => true
  | .rxbuf => true
  | .txbuf => false
  | .rpay => false

/-- `WB`: TPAY and RXBUF only (20_memory.md R42). -/
def hostWrite (s : State) (sp : Space) (i : Nat) (b : Byte) : Host.Outcome State Fault Refusal :=
  if hostWritable sp then
    if inSpace s.cfg sp i 1 then .next (s.store sp i [b]) else .refused (.noSuchByte sp)
  else .refused (.resultBuffer sp)

end Sys2Proof.Machine
end

