-- ==== Sys2Proof/Machine/Codec.lean ====
section
/-! DEFINITION. The four operations: ENCODE (41_encode.md R100), DECODE and DECODE.NV (42_decode.md R120, R121) and PACK
(43_pack_rgbw.md R141). Each is one atomic step (20_memory.md R50). -/

namespace Sys2Proof.Machine

/-! ### ENCODE -/

/-- ENCODE ends with a packet in TXBUF (41_encode.md R107). -/
def commitPacket (s : State) (packet : List Byte) : Host.Outcome State Fault Refusal :=
  touching s .txbuf 0 packet.length
    (.next { s.store .txbuf 0 packet with txLen := BitVec.ofNat 17 packet.length, err := .none, txValid := true })

/-- ENCODE (41_encode.md R100). -/
def execEncode (s : State) : Host.Outcome State Fault Refusal :=
  if frameInvalid s then .next (raise .encode .invalidFrame s)
  else if longMode s then
    touching s .tpay 0 s.txPlen (commitPacket s (marker ++ (longHeader s).bytes ++ s.bytes .tpay 0 s.txPlen))
  else
    touching s .tpay 0 s.txPlen (commitPacket s (marker ++ (shortHeader s).bytes))

/-! ### DECODE and DECODE.NV -/

/-- The Frame of a short packet: 4 payload bytes, no offset (42_decode.md R126). -/
def commitShortFrame (s : State) (h : Header) : Host.Outcome State Fault Refusal :=
  touching s .rpay 0 4
    (.next { s.store .rpay 0 [h.x7, h.x8, h.x9, h.x10] with
      rxAddr := h.addr, rxCmd := h.cmd, rxFlags := h.flags, rxPlen := 4, rxPoff := 0, rxInfo := false
      err := .none, rxValid := true })

/-- The Frame of a long packet: the body, and the offset (42_decode.md R125). -/
def commitLongFrame (s : State) (h : Header) : Host.Outcome State Fault Refusal :=
  touching s .rxbuf 12 h.length.toNat
    (touching s .rpay 0 h.length.toNat
      (.next { s.store .rpay 0 (s.bytes .rxbuf 12 h.length.toNat) with
        rxAddr := h.addr, rxCmd := h.cmd, rxFlags := h.flags, rxPlen := h.length, rxPoff := h.offset, rxInfo := true
        err := .none, rxValid := true }))

/-- The pseudocode both decode operations share (42_decode.md R120), with the tests in the order of 60_exceptions.md R167. -/
def decodeWith (op : Operation) (verify : Bool) (s : State) : Host.Outcome State Fault Refusal :=
  if s.cfg.rbufSize < s.rxLen then .next (raise op .illegalOp s)
  else if s.rxLen < 12 then .next (raise op .truncatedFrame s)
  else touching s .rxbuf 4 8
    (match decodeError s.cfg.checkOrder (sumBad verify (rxHeader s)) (bodyShort s.rxLen (rxHeader s)) with
      | some e => .next (raise op e s)
      | none => if (rxHeader s).long then commitLongFrame s (rxHeader s) else commitShortFrame s (rxHeader s))

/-- DECODE (42_decode.md R120). -/
def execDecode (s : State) : Host.Outcome State Fault Refusal := decodeWith .decode true s

/-- DECODE.NV (42_decode.md R121). -/
def execDecodeNV (s : State) : Host.Outcome State Fault Refusal := decodeWith .decodeNV false s

/-! ### PACK -/

/-- PACK (43_pack_rgbw.md R141). -/
def execPack (s : State) : Host.Outcome State Fault Refusal :=
  if packInvalid s then .next (raise .pack .invalidFrame s)
  else touching s .tpay s.packPtr 4
    (.next { s.store .tpay s.packPtr (rgbwBytes s.color) with packPtr := s.packPtr + 4, err := .none })

end Sys2Proof.Machine
end

