-- ==== Sys2Proof/Machine/WireFields.lean ====
section
/-! DEFINITION. The rows of the table that are data the host delivers (log entry 7): a packet is placed in RXBUF
(20_memory.md R54), a command byte in `TX_CMD` and a flags byte in `TX_FLAGS` (10_state.md R21; 44_wire_fields.md R150 to
R156). The codec carries each unchanged and interprets only flags bit 7, on DECODE. -/

namespace Sys2Proof.Machine

/-- PKT.A: a short packet arrives (30_encoding.md R62). -/
def execPktA (a c : Byte) (u : BitVec 6) (r : Bool) (p0 p1 p2 p3 k : Byte) (s : State) : Host.Outcome State Fault Refusal :=
  placeReceived s (pktABytes a c u r p0 p1 p2 p3 k)

/-- PKT.B: a long packet arrives (30_encoding.md R63). -/
def execPktB (a c : Byte) (u : BitVec 6) (r : Bool) (off : BitVec 16) (k : Byte) (body : List Byte) (s : State) :
    Host.Outcome State Fault Refusal :=
  placeReceived s (pktBBytes a c u r off k body)

/-- CMD_NOOP: the command of the Frame to encode is base 0 (44_wire_fields.md R152, R155). -/
def execCmdNoop (fade : Bool) (s : State) : Host.Outcome State Fault Refusal :=
  .next (regWrite s (cmdByte 0x00 fade).toNat .txCmd)

/-- CMD_PATTERN_SIMPLE: the command of the Frame to encode is base 1 (44_wire_fields.md R153, R155). -/
def execCmdPatternSimple (fade : Bool) (s : State) : Host.Outcome State Fault Refusal :=
  .next (regWrite s (cmdByte 0x01 fade).toNat .txCmd)

/-- CMD_ROTATE: the command of the Frame to encode is base 2 (44_wire_fields.md R154, R155). -/
def execCmdRotate (fade : Bool) (s : State) : Host.Outcome State Fault Refusal :=
  .next (regWrite s (cmdByte 0x02 fade).toNat .txCmd)

/-- CMD.FADE: the command of the Frame to encode has bit 4 set, its other bits as given (44_wire_fields.md R155). -/
def execCmdFade (rest : BitVec 7) (s : State) : Host.Outcome State Fault Refusal :=
  .next (regWrite s (fadeByte rest).toNat .txCmd)

/-- FLAGS: the flags of the Frame to encode (44_wire_fields.md R156). -/
def execFlags (long : Bool) (unnamed : BitVec 6) (rep : Bool) (s : State) : Host.Outcome State Fault Refusal :=
  .next (regWrite s (flagsByte long unnamed rep).toNat .txFlags)

end Sys2Proof.Machine
end

