-- ==== Sys2Proof/Machine/Dispatch.lean ====
section
/-! DEFINITION. One arm for each constructor of Instr. -/

namespace Sys2Proof.Machine

def exec (i : Instr) (s : State) : Host.Outcome State Fault Refusal :=
  match i with
  | .encode => Sys2Proof.Machine.execEncode s
  | .decode => Sys2Proof.Machine.execDecode s
  | .decodeNV => Sys2Proof.Machine.execDecodeNV s
  | .pack => Sys2Proof.Machine.execPack s
  | .pktA a c u r p0 p1 p2 p3 k => Sys2Proof.Machine.execPktA a c u r p0 p1 p2 p3 k s
  | .pktB a c u r off k body => Sys2Proof.Machine.execPktB a c u r off k body s
  | .cmdNoop d => Sys2Proof.Machine.execCmdNoop d s
  | .cmdPatternSimple d => Sys2Proof.Machine.execCmdPatternSimple d s
  | .cmdRotate d => Sys2Proof.Machine.execCmdRotate d s
  | .cmdFade rest => Sys2Proof.Machine.execCmdFade rest s
  | .flags l u r => Sys2Proof.Machine.execFlags l u r s

end Sys2Proof.Machine
end

