-- ==== Sys2Proof/Machine/Host.lean ====
section
/-! DEFINITION. The host side: what each event does (30_encoding.md R78), the fetch of the next event, and the pseudo-actions of
30_encoding.md R79. -/

namespace Sys2Proof.Machine

/-- `WR <reg>, <value>` that carries no row of the table. A write of `OP` is then a reserved code, which performs no operation and
gives IllegalOp (30_encoding.md R77); every other write is plain (10_state.md R13). -/
def plainWrite (n : Nat) (v : Nat) (s : State) : State :=
  match Reg.ofNum n with
  | some .op => raise .reserved .illegalOp s
  | _ => writeNum s n v

/-- An event that carries no row of the table, or whose row is only data: the host action itself. -/
def plainEvent (e : Event) (s : State) : Host.Outcome State Fault Refusal :=
  match e with
  | .wr n v => .next (plainWrite n v s)
  | .rd n => .next { s with replies := readNum s n :: s.replies }
  | .wb sp i b => hostWrite s sp i b
  | .rb sp i => hostRead s sp i
  | .receive bs => placeReceived s bs
  | .reset => .next (State.afterReset s.cfg (s.epoch + 1) s.events s.replies)

/-- The event is one the host can form, as far as a written value goes (10_state.md R13). -/
def eventFits (cfg : Config) : Event → Bool
  | .wr n v => valueFits cfg n v
  | .rd _ => true
  | .wb .. => true
  | .rb .. => true
  | .receive _ => true
  | .reset => true

/-- One event: the instruction it carries is executed, and an event that carries none is the plain host action. -/
def perform (e : Event) (s : State) : Host.Outcome State Fault Refusal :=
  if eventFits s.cfg e then
    match decodeEvent e with
    | .ok i => exec i s
    | .error _ => plainEvent e s
  else .refused .valueTooWide

/-- The next event and the state without it; none when the host does nothing (20_memory.md R51: in the order issued). -/
def fetch (s : State) : Option (Event × State) :=
  match s.events with
  | [] => none
  | e :: rest => some (e, { s with events := rest })

/-- One step: the oldest event takes effect completely (20_memory.md R50, R51). With none the block is idle
(70_reset_and_hazards.md R182). -/
def runNext (s : State) : Host.Outcome State Fault Refusal :=
  match fetch s with
  | none => .next s
  | some (e, s') => perform e s'

/-- The state with the event of a table word as the next event. -/
def placeTableWord (s : State) (nbits w : Nat) : State := { s with events := tableEvent nbits w :: s.events }

/-! ### Pseudo-actions -/

/-- `FILL <space>[<i>], b0 b1 … bk` (30_encoding.md R79). -/
def fill (sp : Space) : Nat → List Byte → List Event
  | _, [] => []
  | i, b :: bs => .wb sp i b :: fill sp (i + 1) bs

/-- `LOOPBACK` on a state (30_encoding.md R79): the bytes it reads are those of TXBUF as they stand. -/
def loopback (s : State) : List Event :=
  .rd Reg.txLen.num ::
    (List.range s.txLen.toNat).flatMap (fun j => [.rb .txbuf j, .wb .rxbuf j (s.byte .txbuf j)])
    ++ [.wr Reg.rxLen.num s.txLen.toNat]

/-- `DUMP TXBUF` on a state (30_encoding.md R79). -/
def dump (s : State) : List Event :=
  .rd Reg.txLen.num :: (List.range s.txLen.toNat).map (fun j => .rb .txbuf j)

end Sys2Proof.Machine
end

