-- ==== Sys2Proof/Machine/Frame.lean ====
section
/-! DEFINITION. The two functions the block is built from, on Frames and byte sequences and without registers (00_scope.md R1;
30_encoding.md R60 to R69), the mapping between a Frame and the registers (10_state.md R21, R22), and the byte order of the
serial side (20_memory.md R53). -/

namespace Sys2Proof.Machine

/-- A Frame: the logical message before serialization (00_scope.md R9; 10_state.md R14). -/
structure Frame where
  memberAddress : Nat
  command : Nat
  flags : Nat
  payload : List Byte
  payloadOffset : Option Nat
  deriving DecidableEq, Repr

/-- The Frame is oversized (41_encode.md R103); `pbuf` is PBUF_SIZE. -/
def Frame.oversized (pbuf : Nat) (f : Frame) : Bool :=
  decide (255 < f.memberAddress) || decide (255 < f.command) || decide (255 < f.flags)
    || decide (min 65535 pbuf < f.payload.length) || f.payloadOffset.any (fun o => decide (65535 < o))

/-- Long mode (30_encoding.md R67). -/
def Frame.long (f : Frame) : Bool := decide (4 < f.payload.length) || f.payloadOffset.isSome

/-- The bytes at offsets 4 to 10 (30_encoding.md R62, R63, R68). -/
def Frame.covered (f : Frame) : List Byte :=
  if f.long then
    [loByte f.memberAddress, loByte f.command, loByte f.flags ||| longBit]
      ++ le16 f.payload.length ++ le16 (f.payloadOffset.getD 0)
  else
    [loByte f.memberAddress, loByte f.command, loByte f.flags] ++ (f.payload ++ List.replicate (4 - f.payload.length) 0)

/-- `encode(frame) -> bytes`: marker, covered bytes, their XOR, and in long mode the payload (30_encoding.md R60). -/
def Frame.toPacket (pbuf : Nat) (f : Frame) : Except Err (List Byte) :=
  if f.oversized pbuf then .error .invalidFrame
  else .ok (marker ++ f.covered ++ [f.covered.foldl (· ^^^ ·) 0] ++ (if f.long then f.payload else []))

/-- Byte `i` of a sequence. -/
def at0 (bs : List Byte) (i : Nat) : Byte := bs.getD i 0

/-- The checksum of a packet: the XOR of its bytes 4 to 10 (40_checksum.md R93). -/
def packetSum (bs : List Byte) : Byte := ((bs.drop 4).take 7).foldl (· ^^^ ·) 0

/-- The Frame the bytes spell, with no test made (42_decode.md R125, R126). -/
def frameOf (bs : List Byte) : Frame :=
  let long := (at0 bs 6).getLsbD 7
  let n := (unle16 (at0 bs 7) (at0 bs 8)).toNat
  { memberAddress := (at0 bs 4).toNat
    command := (at0 bs 5).toNat
    flags := (at0 bs 6).toNat
    payload := if long then (bs.drop 12).take n else (bs.drop 7).take 4
    payloadOffset := if long then some (unle16 (at0 bs 9) (at0 bs 10)).toNat else none }

/-- `decode(bytes, verifyChecksum) -> Frame` (42_decode.md R122 to R126). -/
def frameOfPacket (order : CheckOrder) (verify : Bool) (bs : List Byte) : Except Err Frame :=
  if bs.length < 12 then .error .truncatedFrame
  else
    let bad := verify && packetSum bs != at0 bs 11
    let short := (at0 bs 6).getLsbD 7 && decide (bs.length < 12 + (unle16 (at0 bs 7) (at0 bs 8)).toNat)
    match decodeError order bad short with
    | some e => .error e
    | none => .ok (frameOf bs)

/-- The Frame the TX registers and TPAY hold (10_state.md R21). -/
def txFrame (s : State) : Frame :=
  { memberAddress := s.txAddr, command := s.txCmd, flags := s.txFlags
    payload := s.bytes .tpay 0 s.txPlen
    payloadOffset := if s.txCtrl then some s.txPoff else none }

/-- The Frame the RX registers and RPAY hold; it exists only when `RX_VALID` is 1 (10_state.md R22). -/
def rxFrame (s : State) : Option Frame :=
  if s.rxValid then
    some { memberAddress := s.rxAddr.toNat, command := s.rxCmd.toNat, flags := s.rxFlags.toNat
           payload := s.bytes .rpay 0 s.rxPlen.toNat
           payloadOffset := if s.rxInfo then some s.rxPoff.toNat else none }
  else none

/-- The bytes handed to the serial transmitter, in the order they go out: TXBUF[0] first (20_memory.md R53). -/
def txPacket (s : State) : List Byte := s.bytes .txbuf 0 s.txLen.toNat

/-- The bytes DECODE is given: RXBUF[0 .. RX_LEN-1] (10_state.md R22). -/
def rxPacket (s : State) : List Byte := s.bytes .rxbuf 0 s.rxLen

/-- The bits on the line, byte after byte, in the platform's format of a byte (SER_FORMAT, open: 00_scope.md R6). Nothing else
reads this. Log entry 14. -/
def lineBits (s : State) : List Bool := (txPacket s).flatMap Config.serFormat

/-- LOOPBACK as a whole: the packet in TXBUF stands in RXBUF, and `RX_LEN` is its length (30_encoding.md R79). -/
def loopedBack (s : State) : State := { s.store .rxbuf 0 (txPacket s) with rxLen := s.txLen.toNat }

/-- The host copies a decoded Frame to the TX side (42_decode.md R135). -/
def copyToTx (s : State) : State :=
  { s.store .tpay 0 (s.bytes .rpay 0 s.rxPlen.toNat) with
    txAddr := s.rxAddr.toNat, txCmd := s.rxCmd.toNat, txFlags := s.rxFlags.toNat
    txPlen := s.rxPlen.toNat, txPoff := s.rxPoff.toNat, txCtrl := s.rxInfo }

end Sys2Proof.Machine
end

