-- ==== Sys2Proof/Safety.lean ====
section
/-! DEFINITION. What counts as a safe run, the invariant of the block, and the words claims use for what an operation leaves. -/

namespace Sys2Proof.Machine

/-- The step from a state does not end in a fault: no operation left its buffers (42_decode.md R134). -/
def SafeStep (s : State) : Prop := ∀ f, step s ≠ .fault f

/-- The byte at an index was written since reset (20_memory.md R46). -/
def State.written (s : State) (sp : Space) (i : Nat) : Prop := ∃ b, (s.mem sp).read i = some b

/-- Every buffer is in canonical form and inside its space (20_memory.md R40, R41). -/
def State.memOk (s : State) : Prop := ∀ sp, (s.mem sp).wf ∧ (s.mem sp).within (spaceSize s.cfg sp)

/-- Every REGW-bit operand register holds a value below 2^REGW (10_state.md R13, R14). -/
structure State.operandsFit (s : State) : Prop where
  txAddr : s.txAddr < 2 ^ s.cfg.regw
  txCmd : s.txCmd < 2 ^ s.cfg.regw
  txFlags : s.txFlags < 2 ^ s.cfg.regw
  txPlen : s.txPlen < 2 ^ s.cfg.regw
  txPoff : s.txPoff < 2 ^ s.cfg.regw
  packPtr : s.packPtr < 2 ^ s.cfg.regw
  rxLen : s.rxLen < 2 ^ s.cfg.regw

/-- What `TX_VALID` = 1 says of TXBUF: `TX_LEN` bytes, all written, with the start marker and a right checksum
(10_state.md R17; 30_encoding.md R61, R69; 41_encode.md R109). -/
structure State.txPacketOk (s : State) : Prop where
  shortest : 12 ≤ s.txLen.toNat
  longest : s.txLen.toNat ≤ 12 + s.cfg.pbufSize
  written : ∀ i < s.txLen.toNat, s.written .txbuf i
  marked : s.bytes .txbuf 0 4 = marker
  summed : xor7 (s.byte .txbuf 4) (s.byte .txbuf 5) (s.byte .txbuf 6) (s.byte .txbuf 7) (s.byte .txbuf 8) (s.byte .txbuf 9)
    (s.byte .txbuf 10) = s.byte .txbuf 11

/-- What `RX_VALID` = 1 says of the RX side: a payload that lies in RPAY, all written, 4 bytes of it when there is no offset
(10_state.md R17; 42_decode.md R126, R134). -/
structure State.rxFrameOk (s : State) : Prop where
  shortLength : s.rxInfo = false → s.rxPlen = 4
  inRpay : s.rxPlen.toNat ≤ s.cfg.pbufSize
  written : ∀ i < s.rxPlen.toNat, s.written .rpay i

/-- The invariant of the block. -/
structure State.Inv (s : State) : Prop where
  cfg : s.cfg.ok
  operands : s.operandsFit
  mem : s.memOk
  tx : s.txValid = true → s.txPacketOk
  rx : s.rxValid = true → s.rxFrameOk
  /-- `RX_INFO.POFF_VALID` equals `RX_FLAGS[7]` (10_state.md R19). -/
  offsetFlag : s.rxInfo = s.rxFlags.getLsbD 7
  /-- An absent offset reads 0 (42_decode.md R126). -/
  noOffset : s.rxInfo = false → s.rxPoff = 0

/-- The RX side of the two states is the same but for `STATUS` (20_memory.md R52). -/
def SameRx (s t : State) : Prop :=
  t.rxLen = s.rxLen ∧ t.rxAddr = s.rxAddr ∧ t.rxCmd = s.rxCmd ∧ t.rxFlags = s.rxFlags ∧ t.rxPlen = s.rxPlen
    ∧ t.rxPoff = s.rxPoff ∧ t.rxInfo = s.rxInfo ∧ t.rxbuf = s.rxbuf ∧ t.rpay = s.rpay

/-- The TX side of the two states is the same but for `STATUS` (20_memory.md R52). -/
def SameTx (s t : State) : Prop :=
  t.txAddr = s.txAddr ∧ t.txCmd = s.txCmd ∧ t.txFlags = s.txFlags ∧ t.txPlen = s.txPlen ∧ t.txPoff = s.txPoff
    ∧ t.txCtrl = s.txCtrl ∧ t.txLen = s.txLen ∧ t.color = s.color ∧ t.packPtr = s.packPtr ∧ t.tpay = s.tpay
    ∧ t.txbuf = s.txbuf

/-- Every byte of a space outside `i` to `i+n-1` reads as before. -/
def SameOutside (s t : State) (sp : Space) (i n : Nat) : Prop := ∀ a, a < i ∨ i + n ≤ a → t.byte sp a = s.byte sp a

/-- Every byte of a space reads as before. -/
def SameSpace (s t : State) (sp : Space) : Prop := ∀ a, t.byte sp a = s.byte sp a

end Sys2Proof.Machine
end

