-- ==== Sys2Proof/Certificates/Slice0/Obligations.lean ====
section
/-! DEFINITION. The statements for the provers. Each docstring names the rule of spec/ it formalises. A statement about what an
operation leaves writes the new state as a record update of the old one that takes the changed fields from the new state: every
field not named is unchanged. -/

open Sys2Proof Sys2Proof.Machine

/-! ### Encoding -/

/-- For every well-formed instruction, decoding the event that carries it gives it back, with every operand
(opcode_table.json; 30_encoding.md R62, R63, R75). That a data row's event is the host action that delivers it, and
which of two rows a command byte is, are the model's choices (log entries 7, 9). -/
def Obligations.DecodeOfEncodeIsTheInstruction : Prop :=
  ∀ i : Instr, i.wellFormed = true → decodeEvent (encode i) = .ok i

/-- Where an event decodes, the instruction is well-formed and its encoding is the event itself; for a write of `OP` it is the
write of its low byte (30_encoding.md R76). Events, and which of two rows a command byte is, are the model's (log entries 1, 7, 9). -/
def Obligations.EncodeOfDecodeIsTheEvent : Prop :=
  ∀ (e : Event) (i : Instr), decodeEvent e = .ok i →
    i.wellFormed = true ∧ (encode i = e ∨ ∃ v, e = .wr 0x00 v ∧ encode i = .wr 0x00 (v % 256))

/-- Words written out from the spec's encodings decode to their instructions (vectors O1, O3, O7, E1, W4, W7). That a packet, a
command byte and a flags byte are carried by the host action that delivers them is the model's choice (log entry 7), and so is the
named row for the command byte 0x11 (log entry 9). -/
def Obligations.SpecWordsDecode : Prop :=
  decodeEvent (.wr 0x00 0b00000001) = .ok .encode
    ∧ decodeEvent (.wr 0x00 0b00010010) = .ok .decodeNV
    ∧ decodeEvent (.wr 0x00 0b00010011) = .error (.reservedOp 0x13)
    ∧ decodeEvent (.receive [0x00, 0x55, 0xAA, 0xFF, 0xFF, 0x01, 0x00, 0x32, 0x29, 0x86, 0xFF, 0x9C])
        = .ok (.pktA 0xFF 0x01 0 false 0x32 0x29 0x86 0xFF 0x9C)
    ∧ decodeEvent (.wr 0x03 0b00010001) = .ok (.cmdPatternSimple true)
    ∧ decodeEvent (.wr 0x04 0b10000001) = .ok (.flags true 0 true)

/-- The format of an operation code (30_encoding.md R76): bits 7:5 are 0; `FN` in bits 3:0 is 1 for ENCODE, 2 for DECODE, 3 for
PACK; `NV` in bit 4 is legal only with `FN` = 2 and makes it DECODE.NV. Bits above bit 7 of the written word are ignored. -/
def Obligations.OperationCodeFields : Prop :=
  (∀ b : Byte,
    (decodeOp b = .ok .encode ↔ b.extractLsb' 5 3 = 0 ∧ b.getLsbD 4 = false ∧ b.extractLsb' 0 4 = 1)
    ∧ (decodeOp b = .ok .decode ↔ b.extractLsb' 5 3 = 0 ∧ b.getLsbD 4 = false ∧ b.extractLsb' 0 4 = 2)
    ∧ (decodeOp b = .ok .decodeNV ↔ b.extractLsb' 5 3 = 0 ∧ b.getLsbD 4 = true ∧ b.extractLsb' 0 4 = 2)
    ∧ (decodeOp b = .ok .pack ↔ b.extractLsb' 5 3 = 0 ∧ b.getLsbD 4 = false ∧ b.extractLsb' 0 4 = 3)
    ∧ ((∃ i, decodeOp b = .ok i) ↔
        b.extractLsb' 5 3 = 0 ∧ (b.extractLsb' 0 4 = 1 ∨ b.extractLsb' 0 4 = 2 ∨ b.extractLsb' 0 4 = 3)
          ∧ (b.getLsbD 4 = true → b.extractLsb' 0 4 = 2)))
    ∧ ∀ v : Nat, decodeEvent (.wr 0x00 v) = decodeOp (BitVec.ofNat 8 v)

/-- The register numbers of 10_state.md R14 are read back as their registers, and no other number is a register. -/
def Obligations.RegisterNumbersAgree : Prop :=
  ∀ (n : Nat) (r : Reg), Reg.ofNum n = some r ↔ r.num = n

/-! ### Reset -/

/-- After reset every register reads 0 and the contents of the four buffers are unspecified: no byte has been written
(10_state.md R30). -/
def Obligations.ResetLeavesZeros : Prop :=
  (∀ n, readNum Sys2Proof.core.reset n = 0)
    ∧ ∀ sp i, ¬ State.written Sys2Proof.core.reset sp i

/-- A reset event leaves what reset leaves (70_reset_and_hazards.md R180, R181). That the parameters and the host's later actions
stay is the model's choice (log entries 3, 5). -/
def Obligations.ResetEventLeavesZeros : Prop :=
  ∀ (s : State) (rest : List Event), s.events = .reset :: rest →
    ∃ t, step s = .next t ∧ (∀ n, readNum t n = 0) ∧ (∀ sp i, ¬ t.written sp i) ∧ t.cfg = s.cfg ∧ t.events = rest

/-- The invariant `State.Inv` holds at reset. -/
def Obligations.ResetMeetsInvariant : Prop := State.Inv Sys2Proof.core.reset

/-! ### The step -/

/-- When the oldest event carries a well-formed instruction, the step is that instruction's execution on the state without the
event (20_memory.md R50, R51). The queue of host actions is the model's (log entry 1). -/
def Obligations.StepRunsTheDecodedInstruction : Prop :=
  ∀ (s : State) (e : Event) (rest : List Event) (i : Instr),
    s.events = e :: rest → eventFits s.cfg e = true → decodeEvent e = .ok i →
      step s = exec i { s with events := rest }

/-- An event that carries no instruction is the plain host action, and with no event the block is idle
(70_reset_and_hazards.md R182; log entry 1). -/
def Obligations.StepOfOtherEvents : Prop :=
  (∀ (s : State) (e : Event) (rest : List Event) (r : Reject),
    s.events = e :: rest → eventFits s.cfg e = true → decodeEvent e = .error r →
      step s = plainEvent e { s with events := rest })
  ∧ ∀ s : State, s.events = [] → step s = .next s

/-- A word of the opcode table placed where the step fetches is run by the very next step, on the state it was placed in. Where
that is, and which row a word is, are the model's choices (log entries 2, 10). -/
def Obligations.FetchWordIsRunNext : Prop :=
  ∀ (s : State) (nbits w : Nat) (i : Instr), s.cfg.ok → decodeTableWord nbits w = some i →
    step (s.withFetchWord nbits w) = exec i s

/-- The table's data rows do what the host action that delivers them does, which is the model's choice (log entry 7; 10_state.md
R21, 20_memory.md R54). -/
def Obligations.DataRowsAreHostActions : Prop :=
  ∀ (s : State) (e : Event) (i : Instr), decodeEvent e = .ok i → (∀ v, e ≠ .wr 0x00 v) → exec i s = plainEvent e s

/-- Every step from a state that meets the invariant leaves a state that meets it. -/
def Obligations.StepKeepsInvariant : Prop :=
  ∀ s t : State, s.Inv → step s = .next t → t.Inv

/-- No step changes the parameters, which the model holds in the state (log entry 3; 00_scope.md R6). -/
def Obligations.StepKeepsParameters : Prop :=
  ∀ s t : State, step s = .next t → t.cfg = s.cfg

/-- No operation leaves its buffers, whatever the registers hold (42_decode.md R130, R134). The fault it rules out is the
model's own (log entry 16). -/
def Obligations.StepNeverFaults : Prop :=
  ∀ s : State, s.cfg.ok → SafeStep s

/-- `STATUS` is written by writes of `OP` only, and by reset (10_state.md R17, R20). -/
def Obligations.StatusIsWrittenByOperationsOnly : Prop :=
  ∀ (s t : State) (e : Event) (rest : List Event), s.events = e :: rest → (∀ v, e ≠ .wr 0x00 v) → e ≠ .reset →
    step s = .next t → t.err = s.err ∧ t.txValid = s.txValid ∧ t.rxValid = s.rxValid

/-! ### Host access -/

/-- A host write of a register stores the value but into reserved bits; a read-only register and an unused number take none; a
read answers the register, `OP` reads 0, and neither kind of read changes anything (10_state.md R13, R14, R16). The queue, the
answers and what `COLOR` takes and answers where REGW is not 32 are the model's choices (log entries 1, 6, 12). -/
def Obligations.HostRegisterAccess : Prop :=
  (∀ (s : State) (n v : Nat) (rest : List Event), s.events = .wr n v :: rest → n ≠ 0x00 → valueFits s.cfg n v = true →
    ∃ t, step s = .next t ∧
      (n = 0x02 → t = { s with events := rest, txAddr := v }) ∧
      (n = 0x03 → t = { s with events := rest, txCmd := v }) ∧
      (n = 0x04 → t = { s with events := rest, txFlags := v }) ∧
      (n = 0x05 → t = { s with events := rest, txPlen := v }) ∧
      (n = 0x06 → t = { s with events := rest, txPoff := v }) ∧
      (n = 0x07 → t = { s with events := rest, txCtrl := v % 2 == 1 }) ∧
      (n = 0x09 → t = { s with events := rest, color := t.color } ∧ t.color.toNat = v % 2 ^ 32) ∧
      (n = 0x0A → t = { s with events := rest, packPtr := v }) ∧
      (n = 0x10 → t = { s with events := rest, rxLen := v }) ∧
      (n ∉ [0x02, 0x03, 0x04, 0x05, 0x06, 0x07, 0x09, 0x0A, 0x10] → t = { s with events := rest }))
  ∧ (∀ (s : State) (n : Nat) (rest : List Event), s.events = .rd n :: rest →
      step s = .next { s with events := rest, replies := readNum s n :: s.replies })
  ∧ ∀ s : State, readNum s 0x00 = 0

/-- Every register reads as its field, zero-extended, and every unused number reads 0 (10_state.md R14). That `COLOR` reads all 32
bits also where REGW is below 32 is the model's choice (log entry 12). -/
def Obligations.RegisterReads : Prop :=
  ∀ s : State,
    readNum s 0x02 = s.txAddr ∧ readNum s 0x03 = s.txCmd ∧ readNum s 0x04 = s.txFlags ∧ readNum s 0x05 = s.txPlen
    ∧ readNum s 0x06 = s.txPoff ∧ readNum s 0x07 = s.txCtrl.toNat ∧ readNum s 0x08 = s.txLen.toNat
    ∧ readNum s 0x09 = s.color.toNat ∧ readNum s 0x0A = s.packPtr ∧ readNum s 0x10 = s.rxLen
    ∧ readNum s 0x11 = s.rxAddr.toNat ∧ readNum s 0x12 = s.rxCmd.toNat ∧ readNum s 0x13 = s.rxFlags.toNat
    ∧ readNum s 0x14 = s.rxPlen.toNat ∧ readNum s 0x15 = s.rxPoff.toNat ∧ readNum s 0x16 = s.rxInfo.toNat
    ∧ ∀ n, (0x0B ≤ n ∧ n ≤ 0x0F ∨ 0x17 ≤ n) → readNum s n = 0

/-- The layout of `STATUS`: `ERR` in bits 2:0 with values 0 to 4, bit 3 zero, `TX_VALID` in bit 4, `RX_VALID` in bit 5, nothing
above (10_state.md R17). -/
def Obligations.StatusWordLayout : Prop :=
  ∀ s : State, readNum s 0x01 % 8 ≤ 4 ∧ (readNum s 0x01 % 8 = 0 ↔ s.err = .none)
    ∧ (readNum s 0x01 % 8 = 1 ↔ s.err = .invalidFrame) ∧ (readNum s 0x01 % 8 = 2 ↔ s.err = .truncatedFrame)
    ∧ (readNum s 0x01 % 8 = 3 ↔ s.err = .checksumMismatch) ∧ (readNum s 0x01 % 8 = 4 ↔ s.err = .illegalOp)
    ∧ (readNum s 0x01).testBit 3 = false ∧ (readNum s 0x01).testBit 4 = s.txValid ∧ (readNum s 0x01).testBit 5 = s.rxValid
    ∧ readNum s 0x01 < 64

/-- The host writes any byte of TPAY and RXBUF and reads any byte of any space; it cannot write TXBUF or RPAY, and an index
outside the space is no host action (20_memory.md R41, R42; 93_implementation_defined.md U14). Refusing by name is the model's
form of that (log entry 11). -/
def Obligations.HostBufferAccess : Prop :=
  (∀ (s : State) (sp : Space) (i : Nat) (b : Byte) (rest : List Event), s.events = .wb sp i b :: rest →
    (sp = .tpay ∨ sp = .rxbuf → i < spaceSize s.cfg sp →
      ∃ t, step s = .next t ∧ t = { s with events := rest, tpay := t.tpay, rxbuf := t.rxbuf }
        ∧ t.byte sp i = b ∧ SameOutside s t sp i 1 ∧ (sp = .tpay → t.rxbuf = s.rxbuf) ∧ (sp = .rxbuf → t.tpay = s.tpay))
    ∧ (sp = .tpay ∨ sp = .rxbuf → spaceSize s.cfg sp ≤ i → step s = .refused (.noSuchByte sp))
    ∧ (sp = .txbuf ∨ sp = .rpay → step s = .refused (.resultBuffer sp)))
  ∧ ∀ (s : State) (sp : Space) (i : Nat) (rest : List Event), s.events = .rb sp i :: rest →
    (i < spaceSize s.cfg sp → step s = .next { s with events := rest, replies := (s.byte sp i).toNat :: s.replies })
    ∧ (spaceSize s.cfg sp ≤ i → step s = .refused (.noSuchByte sp))

/-- Received bytes are what `FILL RXBUF[0], bytes` and `WR RX_LEN, count` leave, run one after the other
(20_memory.md R54; 30_encoding.md R79). That bytes arrive in one event is the model's choice (log entry 8). -/
def Obligations.ReceivedBytesAreFillAndLength : Prop :=
  ∀ (s : State) (bs : List Byte), s.cfg.ok → s.rxbuf.wf → bs.length ≤ s.cfg.rbufSize →
    Sys2Proof.core.run (bs.length + 1) { s with events := fill .rxbuf 0 bs ++ [.wr 0x10 bs.length] ++ s.events }
      = step { s with events := .receive bs :: s.events }

/-- `LOOPBACK` carries the packet in TXBUF to RXBUF and its length to `RX_LEN` (30_encoding.md R79). The queue it runs from and
the answers it leaves are the model's (log entries 1, 6). -/
def Obligations.LoopbackCarriesThePacket : Prop :=
  ∀ s : State, s.cfg.ok → s.rxbuf.wf → s.txLen.toNat ≤ s.cfg.rbufSize → s.txLen.toNat ≤ 12 + s.cfg.pbufSize →
    ∃ t, Sys2Proof.core.run (loopback s).length { s with events := loopback s ++ s.events } = .next t
      ∧ t = { loopedBack s with replies := t.replies }

/-! ### ENCODE -/

/-- ENCODE raises InvalidFrame when, and only when, a field is oversized; nothing but `STATUS` changes then
(41_encode.md R103). -/
def Obligations.EncodeRefusesOversizedFields : Prop :=
  ∀ s : State, s.cfg.ok →
    ((255 < s.txAddr ∨ 255 < s.txCmd ∨ 255 < s.txFlags ∨ 65535 < s.txPlen ∨ (s.txCtrl = true ∧ 65535 < s.txPoff)
        ∨ s.cfg.pbufSize < s.txPlen) → exec .encode s = .next { s with err := .invalidFrame, txValid := false })
    ∧ (¬ (255 < s.txAddr ∨ 255 < s.txCmd ∨ 255 < s.txFlags ∨ 65535 < s.txPlen ∨ (s.txCtrl = true ∧ 65535 < s.txPoff)
        ∨ s.cfg.pbufSize < s.txPlen) → ∃ t, exec .encode s = .next t ∧ t.err = .none ∧ t.txValid = true)

/-- The short packet, byte for byte: marker, address, command, the caller's flags, the payload padded with zeros on the right to 4
bytes, the checksum; 12 bytes (30_encoding.md R62; 41_encode.md R101, R105). -/
def Obligations.EncodeShortPacket : Prop :=
  ∀ s : State, s.cfg.ok → s.txAddr ≤ 255 → s.txCmd ≤ 255 → s.txFlags ≤ 255 → s.txPlen ≤ 4 → s.txCtrl = false →
    ∃ t, exec .encode s = .next t ∧ t.err = .none ∧ t.txValid = true ∧ t.txLen.toNat = 12
      ∧ t.byte .txbuf 0 = 0x00 ∧ t.byte .txbuf 1 = 0x55 ∧ t.byte .txbuf 2 = 0xAA ∧ t.byte .txbuf 3 = 0xFF
      ∧ (t.byte .txbuf 4).toNat = s.txAddr ∧ (t.byte .txbuf 5).toNat = s.txCmd ∧ (t.byte .txbuf 6).toNat = s.txFlags
      ∧ (∀ i < 4, t.byte .txbuf (7 + i) = if i < s.txPlen then s.byte .tpay i else 0)
      ∧ t.byte .txbuf 11 = t.byte .txbuf 4 ^^^ t.byte .txbuf 5 ^^^ t.byte .txbuf 6 ^^^ t.byte .txbuf 7 ^^^ t.byte .txbuf 8
          ^^^ t.byte .txbuf 9 ^^^ t.byte .txbuf 10

/-- The long packet, byte for byte: marker, address, command, flags with bit 7 set, the true length and the offset (0 if there is
none) little-endian, the checksum, the unpadded payload; 12 + TX_PLEN bytes (30_encoding.md R63; 41_encode.md R101, R102, R106). -/
def Obligations.EncodeLongPacket : Prop :=
  ∀ s : State, s.cfg.ok → s.txAddr ≤ 255 → s.txCmd ≤ 255 → s.txFlags ≤ 255 → s.txPlen ≤ s.cfg.pbufSize →
    (s.txCtrl = true → s.txPoff ≤ 65535) → (4 < s.txPlen ∨ s.txCtrl = true) →
    ∃ t, exec .encode s = .next t ∧ t.err = .none ∧ t.txValid = true ∧ t.txLen.toNat = 12 + s.txPlen
      ∧ t.byte .txbuf 0 = 0x00 ∧ t.byte .txbuf 1 = 0x55 ∧ t.byte .txbuf 2 = 0xAA ∧ t.byte .txbuf 3 = 0xFF
      ∧ (t.byte .txbuf 4).toNat = s.txAddr ∧ (t.byte .txbuf 5).toNat = s.txCmd
      ∧ t.byte .txbuf 6 = BitVec.ofNat 8 s.txFlags ||| 0x80
      ∧ (t.byte .txbuf 7).toNat + 256 * (t.byte .txbuf 8).toNat = s.txPlen
      ∧ (t.byte .txbuf 9).toNat + 256 * (t.byte .txbuf 10).toNat = (if s.txCtrl then s.txPoff else 0)
      ∧ t.byte .txbuf 11 = t.byte .txbuf 4 ^^^ t.byte .txbuf 5 ^^^ t.byte .txbuf 6 ^^^ t.byte .txbuf 7 ^^^ t.byte .txbuf 8
          ^^^ t.byte .txbuf 9 ^^^ t.byte .txbuf 10
      ∧ ∀ i < s.txPlen, t.byte .txbuf (12 + i) = s.byte .tpay i

/-- What a successful ENCODE leaves unchanged: everything but TXBUF[0 .. TX_LEN-1], `TX_LEN`, `STATUS.ERR` and `STATUS.TX_VALID`;
and a second ENCODE with no write in between leaves the same state (41_encode.md R107). -/
def Obligations.EncodeLeavesTheRest : Prop :=
  ∀ s t : State, exec .encode s = .next t → t.err = .none →
    t = { s with txbuf := t.txbuf, txLen := t.txLen, err := .none, txValid := true }
    ∧ SameOutside s t .txbuf 0 t.txLen.toNat
    ∧ exec .encode t = .next t

/-- With PBUF_SIZE = 65535 every well-formed Frame encodes, and the packet is a function of the Frame's fields and of
TPAY[0 .. TX_PLEN-1] alone (41_encode.md R108). -/
def Obligations.EncodeIsTotalAndDeterministic : Prop :=
  ∀ s s' : State, s.cfg.ok → s'.cfg = s.cfg → s.cfg.pbufSize = 65535 →
    s.txAddr ≤ 255 → s.txCmd ≤ 255 → s.txFlags ≤ 255 → s.txPlen ≤ 65535 → (s.txCtrl = true → s.txPoff ≤ 65535) →
    s'.txAddr = s.txAddr → s'.txCmd = s.txCmd → s'.txFlags = s.txFlags → s'.txPlen = s.txPlen → s'.txCtrl = s.txCtrl →
    (s.txCtrl = true → s'.txPoff = s.txPoff) → (∀ i < s.txPlen, s'.byte .tpay i = s.byte .tpay i) →
    ∃ t t', exec .encode s = .next t ∧ exec .encode s' = .next t' ∧ t.err = .none ∧ t'.err = .none ∧ txPacket t' = txPacket t

/-- A caller-set flags bit 7 does not change the layout of a short packet, which then reads as a long one: DECODE takes payload
bytes 0 and 1 as the length and reports TruncatedFrame unless that length is 0 (41_encode.md R112; 70_reset_and_hazards.md
R187). -/
def Obligations.CallerBitSevenReadsAsLong : Prop :=
  ∀ s : State, s.cfg.ok → s.txAddr ≤ 255 → s.txCmd ≤ 255 → 128 ≤ s.txFlags → s.txFlags ≤ 255 → s.txPlen ≤ 4 →
    s.txCtrl = false →
    ∃ t, exec .encode s = .next t ∧ t.txLen.toNat = 12 ∧ (t.byte .txbuf 6).toNat = s.txFlags
      ∧ ((t.byte .txbuf 7 ≠ 0 ∨ t.byte .txbuf 8 ≠ 0) →
          exec .decode (loopedBack t) = .next { loopedBack t with err := .truncatedFrame, rxValid := false })
      ∧ ((t.byte .txbuf 7 = 0 ∧ t.byte .txbuf 8 = 0) →
          ∃ u, exec .decode (loopedBack t) = .next u ∧ u.err = .none ∧ u.rxPlen = 0 ∧ u.rxInfo = true
            ∧ u.rxPoff.toNat = (t.byte .txbuf 9).toNat + 256 * (t.byte .txbuf 10).toNat)

/-! ### DECODE and DECODE.NV -/

/-- With fewer than 12 bytes both decode operations report TruncatedFrame, whatever RXBUF holds (42_decode.md R122). -/
def Obligations.DecodeNeedsTwelveBytes : Prop :=
  ∀ (s : State) (i : Instr), i = .decode ∨ i = .decodeNV → s.cfg.ok → s.rxLen < 12 →
    exec i s = .next { s with err := .truncatedFrame, rxValid := false }

/-- An `RX_LEN` larger than RXBUF gives IllegalOp and changes nothing but `STATUS.ERR`; with any other the operation ends, and a
payload copied into RPAY ends inside RPAY (42_decode.md R130). -/
def Obligations.DecodeRefusesOverlongLength : Prop :=
  ∀ (s : State) (i : Instr), i = .decode ∨ i = .decodeNV →
    (s.cfg.rbufSize < s.rxLen → exec i s = .next { s with err := .illegalOp })
    ∧ (s.cfg.ok → s.rxLen ≤ s.cfg.rbufSize →
        ∃ t, exec i s = .next t ∧ (t.err = .none → t.rxPlen.toNat ≤ s.cfg.pbufSize)
          ∧ ∀ a, s.cfg.pbufSize ≤ a → t.byte .rpay a = s.byte .rpay a)

/-- The checksum test and the body-length test, in the order `DEC_CHECK_ORDER` sets, and DECODE.NV, which makes only the second
(42_decode.md R124, R125; 60_exceptions.md R167). -/
def Obligations.DecodeErrorOrder : Prop :=
  ∀ s : State, s.cfg.ok → 12 ≤ s.rxLen → s.rxLen ≤ s.cfg.rbufSize →
    ∀ bad short : Prop,
    (bad ↔ s.byte .rxbuf 4 ^^^ s.byte .rxbuf 5 ^^^ s.byte .rxbuf 6 ^^^ s.byte .rxbuf 7 ^^^ s.byte .rxbuf 8
        ^^^ s.byte .rxbuf 9 ^^^ s.byte .rxbuf 10 ≠ s.byte .rxbuf 11) →
    (short ↔ (s.byte .rxbuf 6).getLsbD 7 = true
        ∧ s.rxLen < 12 + ((s.byte .rxbuf 7).toNat + 256 * (s.byte .rxbuf 8).toNat)) →
    (bad → (s.cfg.checkOrder = .csumFirst ∨ ¬ short) →
      exec .decode s = .next { s with err := .checksumMismatch, rxValid := false })
    ∧ (short → (s.cfg.checkOrder = .truncFirst ∨ ¬ bad) →
      exec .decode s = .next { s with err := .truncatedFrame, rxValid := false })
    ∧ (short → exec .decodeNV s = .next { s with err := .truncatedFrame, rxValid := false })
    ∧ (¬ bad → ¬ short → ∃ t, exec .decode s = .next t ∧ t.err = .none)
    ∧ (¬ short → ∃ t, exec .decodeNV s = .next t ∧ t.err = .none)

/-- A short packet decodes to its 4 payload bytes with no offset (42_decode.md R123, R126). DECODE needs the checksum to be
right, DECODE.NV does not. -/
def Obligations.DecodeShortFrame : Prop :=
  ∀ (s : State) (i : Instr), i = .decode ∨ i = .decodeNV → s.cfg.ok → 12 ≤ s.rxLen → s.rxLen ≤ s.cfg.rbufSize →
    (s.byte .rxbuf 6).getLsbD 7 = false →
    (i = .decode → s.byte .rxbuf 4 ^^^ s.byte .rxbuf 5 ^^^ s.byte .rxbuf 6 ^^^ s.byte .rxbuf 7 ^^^ s.byte .rxbuf 8
        ^^^ s.byte .rxbuf 9 ^^^ s.byte .rxbuf 10 = s.byte .rxbuf 11) →
    ∃ t, exec i s = .next t ∧ t.err = .none ∧ t.rxValid = true
      ∧ t.rxAddr = s.byte .rxbuf 4 ∧ t.rxCmd = s.byte .rxbuf 5 ∧ t.rxFlags = s.byte .rxbuf 6
      ∧ t.rxPlen.toNat = 4 ∧ (∀ k < 4, t.byte .rpay k = s.byte .rxbuf (7 + k)) ∧ t.rxInfo = false ∧ t.rxPoff = 0

/-- A long packet decodes to the bytes after its header, as many as its length field says, and its offset
(42_decode.md R123, R125). -/
def Obligations.DecodeLongFrame : Prop :=
  ∀ (s : State) (i : Instr), i = .decode ∨ i = .decodeNV → s.cfg.ok → s.rxLen ≤ s.cfg.rbufSize →
    (s.byte .rxbuf 6).getLsbD 7 = true →
    12 + ((s.byte .rxbuf 7).toNat + 256 * (s.byte .rxbuf 8).toNat) ≤ s.rxLen →
    (i = .decode → s.byte .rxbuf 4 ^^^ s.byte .rxbuf 5 ^^^ s.byte .rxbuf 6 ^^^ s.byte .rxbuf 7 ^^^ s.byte .rxbuf 8
        ^^^ s.byte .rxbuf 9 ^^^ s.byte .rxbuf 10 = s.byte .rxbuf 11) →
    ∃ t, exec i s = .next t ∧ t.err = .none ∧ t.rxValid = true
      ∧ t.rxAddr = s.byte .rxbuf 4 ∧ t.rxCmd = s.byte .rxbuf 5 ∧ t.rxFlags = s.byte .rxbuf 6
      ∧ t.rxPlen.toNat = (s.byte .rxbuf 7).toNat + 256 * (s.byte .rxbuf 8).toNat
      ∧ t.rxPoff.toNat = (s.byte .rxbuf 9).toNat + 256 * (s.byte .rxbuf 10).toNat
      ∧ (∀ k < t.rxPlen.toNat, t.byte .rpay k = s.byte .rxbuf (12 + k)) ∧ t.rxInfo = true

/-- What a decode leaves unchanged. A successful one: everything but the RX result registers, RPAY[0 .. RX_PLEN-1],
`STATUS.ERR` and `STATUS.RX_VALID`; and repeating it leaves the same state. Any: `RX_LEN`, RXBUF, RPAY from index `RX_PLEN` on,
and the TX side (42_decode.md R128). -/
def Obligations.DecodeLeavesTheRest : Prop :=
  ∀ (s t : State) (i : Instr), i = .decode ∨ i = .decodeNV → exec i s = .next t →
    (t.err = .none →
      t = { s with rxAddr := t.rxAddr, rxCmd := t.rxCmd, rxFlags := t.rxFlags, rxPlen := t.rxPlen, rxPoff := t.rxPoff
                   rxInfo := t.rxInfo, rpay := t.rpay, err := .none, rxValid := true }
      ∧ exec i t = .next t)
    ∧ t.rxLen = s.rxLen ∧ t.rxbuf = s.rxbuf ∧ SameOutside s t .rpay 0 t.rxPlen.toNat
    ∧ SameTx s t ∧ t.txValid = s.txValid

/-- After a successful decode `RX_FLAGS` is the byte at offset 6, all eight bits, and `RX_INFO.POFF_VALID` equals its bit 7
(42_decode.md R127; 10_state.md R19). -/
def Obligations.DecodeReturnsTheFlags : Prop :=
  ∀ (s t : State) (i : Instr), i = .decode ∨ i = .decodeNV → exec i s = .next t → t.err = .none →
    t.rxFlags = s.byte .rxbuf 6 ∧ t.rxInfo = t.rxFlags.getLsbD 7

/-- No decode depends on RXBUF[0 .. 3], nor on bytes after the packet: RXBUF contents that agree on the bytes 4 to 11, and in long
mode on the body, give the same result (42_decode.md R123, R129; 20_memory.md R49). -/
def Obligations.DecodeReadsOnlyThePacket : Prop :=
  ∀ (s t : State) (i : Instr) (m : Memory), i = .decode ∨ i = .decodeNV → exec i s = .next t →
    (∀ k, 4 ≤ k → k < 12 → ({ s with rxbuf := m } : State).byte .rxbuf k = s.byte .rxbuf k) →
    ((s.byte .rxbuf 6).getLsbD 7 = true → ∀ k, 12 ≤ k →
      k < 12 + ((s.byte .rxbuf 7).toNat + 256 * (s.byte .rxbuf 8).toNat) →
        ({ s with rxbuf := m } : State).byte .rxbuf k = s.byte .rxbuf k) →
    exec i { s with rxbuf := m } = .next { t with rxbuf := m }

/-- The decoder is total: with `RX_LEN` within RXBUF each decode ends in a Frame, TruncatedFrame or, for DECODE only,
ChecksumMismatch; it reads RXBUF[0 .. RX_LEN-1] only (contents that agree there give the same result) and writes
RPAY[0 .. PBUF_SIZE-1] only (42_decode.md R134). -/
def Obligations.DecodeIsTotal : Prop :=
  ∀ (s : State) (i : Instr), i = .decode ∨ i = .decodeNV → s.cfg.ok → s.rxLen ≤ s.cfg.rbufSize →
    ∃ t, exec i s = .next t
      ∧ ((t.err = .none ∧ t.rxValid = true) ∨ (t.err = .truncatedFrame ∧ t.rxValid = false)
          ∨ (i = .decode ∧ t.err = .checksumMismatch ∧ t.rxValid = false))
      ∧ (∀ m : Memory, (∀ k < s.rxLen, ({ s with rxbuf := m } : State).byte .rxbuf k = s.byte .rxbuf k) →
          exec i { s with rxbuf := m } = .next { t with rxbuf := m })
      ∧ ∀ a, s.cfg.pbufSize ≤ a → t.byte .rpay a = s.byte .rpay a

/-! ### PACK -/

/-- PACK stores the colour as W, B, G, R at `PACK_PTR`, advances `PACK_PTR` by 4 and clears `ERR`; every other byte and register
is unchanged. Where the four bytes do not fit TPAY it gives InvalidFrame and changes nothing but `ERR`
(43_pack_rgbw.md R140, R141). -/
def Obligations.PackStoresThePixel : Prop :=
  ∀ s : State,
    (s.packPtr + 4 ≤ s.cfg.pbufSize → ∀ w b g r : Byte,
      s.color.toNat = 2 ^ 24 * w.toNat + 2 ^ 16 * b.toNat + 2 ^ 8 * g.toNat + r.toNat →
      ∃ t, exec .pack s = .next t ∧ t = { s with tpay := t.tpay, packPtr := s.packPtr + 4, err := .none }
        ∧ t.byte .tpay s.packPtr = w ∧ t.byte .tpay (s.packPtr + 1) = b
        ∧ t.byte .tpay (s.packPtr + 2) = g ∧ t.byte .tpay (s.packPtr + 3) = r
        ∧ SameOutside s t .tpay s.packPtr 4)
    ∧ (s.cfg.pbufSize < s.packPtr + 4 → exec .pack s = .next { s with err := .invalidFrame })

/-- With the default PBUF_SIZE, PACK raises InvalidFrame exactly from `PACK_PTR` = 65532 on (43_pack_rgbw.md R143). -/
def Obligations.PackRangeAtDefaults : Prop :=
  ∀ s : State, s.cfg.pbufSize = 65535 →
    (65532 ≤ s.packPtr ↔ ∃ t, exec .pack s = .next t ∧ t.err = .invalidFrame)

/-! ### Checksum -/

/-- The checksum is the XOR of its seven inputs in any order, from the initial value 0: bit by bit their parity
(40_checksum.md R90). -/
def Obligations.ChecksumIsPlainXor : Prop :=
  ∀ b4 b5 b6 b7 b8 b9 b10 : Byte,
    (∀ i, (xor7 b4 b5 b6 b7 b8 b9 b10).getLsbD i
      = (b4.getLsbD i ^^ b5.getLsbD i ^^ b6.getLsbD i ^^ b7.getLsbD i ^^ b8.getLsbD i ^^ b9.getLsbD i ^^ b10.getLsbD i))
    ∧ ∀ l : List Byte, l.Perm [b4, b5, b6, b7, b8, b9, b10] → l.foldl (· ^^^ ·) 0 = xor7 b4 b5 b6 b7 b8 b9 b10

/-- Changing exactly one of the bytes 4 to 11 of a packet with a right checksum makes DECODE fail with ChecksumMismatch, when the
checksum is tested first (40_checksum.md R95). -/
def Obligations.OneChangedByteIsDetected : Prop :=
  ∀ (s : State) (j : Nat) (v : Byte), s.cfg.ok → s.cfg.checkOrder = .csumFirst → 12 ≤ s.rxLen → s.rxLen ≤ s.cfg.rbufSize →
    csumOk (rxHeader s) = true → 4 ≤ j → j < 12 → v ≠ s.byte .rxbuf j →
    exec .decode (s.store .rxbuf j [v])
      = .next { s.store .rxbuf j [v] with err := .checksumMismatch, rxValid := false }

/-- Which changes of the header the checksum misses: with a right checksum before, it is right after exactly when the changes of
the eight bytes cancel, an even number of flips at each bit position. A changed marker or body byte never matters
(40_checksum.md R94, R95; 70_reset_and_hazards.md R195). -/
def Obligations.ChecksumMissesEvenFlips : Prop :=
  (∀ h e : Header, csumOk h = true →
    (csumOk { addr := h.addr ^^^ e.addr, cmd := h.cmd ^^^ e.cmd, flags := h.flags ^^^ e.flags, x7 := h.x7 ^^^ e.x7
              x8 := h.x8 ^^^ e.x8, x9 := h.x9 ^^^ e.x9, x10 := h.x10 ^^^ e.x10, sum := h.sum ^^^ e.sum } = true
      ↔ e.addr ^^^ e.cmd ^^^ e.flags ^^^ e.x7 ^^^ e.x8 ^^^ e.x9 ^^^ e.x10 ^^^ e.sum = 0))
  ∧ ∀ (s : State) (j : Nat) (v : Byte), (j < 4 ∨ 12 ≤ j) → csumOk (rxHeader (s.store .rxbuf j [v])) = csumOk (rxHeader s)

/-! ### Round trips and the pure functions -/

/-- ENCODE, LOOPBACK, DECODE (or DECODE.NV) of a short Frame whose flags bit 7 is clear gives the Frame back, its payload padded
with zeros to 4 bytes (42_decode.md R132). -/
def Obligations.ShortRoundTrip : Prop :=
  ∀ (s : State) (i : Instr), i = .decode ∨ i = .decodeNV → s.cfg.ok → s.txAddr ≤ 255 → s.txCmd ≤ 255 → s.txFlags < 128 →
    s.txPlen ≤ 4 → s.txCtrl = false →
    ∃ t u, exec .encode s = .next t ∧ exec i (loopedBack t) = .next u ∧ u.err = .none ∧ u.rxValid = true
      ∧ u.rxAddr.toNat = s.txAddr ∧ u.rxCmd.toNat = s.txCmd ∧ u.rxFlags.toNat = s.txFlags ∧ u.rxInfo = false
      ∧ u.rxPlen.toNat = 4 ∧ ∀ k < 4, u.byte .rpay k = if k < s.txPlen then s.byte .tpay k else 0

/-- ENCODE, LOOPBACK, DECODE (or DECODE.NV) of a long Frame whose packet fits RXBUF gives back address, command, payload and
offset; the flags come back with bit 7 set and an absent offset as a present 0 (42_decode.md R133). -/
def Obligations.LongRoundTrip : Prop :=
  ∀ (s : State) (i : Instr), i = .decode ∨ i = .decodeNV → s.cfg.ok → s.txAddr ≤ 255 → s.txCmd ≤ 255 → s.txFlags ≤ 255 →
    s.txPlen ≤ s.cfg.pbufSize → 12 + s.txPlen ≤ s.cfg.rbufSize → (s.txCtrl = true → s.txPoff ≤ 65535) →
    (4 < s.txPlen ∨ s.txCtrl = true) →
    ∃ t u, exec .encode s = .next t ∧ exec i (loopedBack t) = .next u ∧ u.err = .none ∧ u.rxValid = true
      ∧ u.rxAddr.toNat = s.txAddr ∧ u.rxCmd.toNat = s.txCmd ∧ u.rxFlags = BitVec.ofNat 8 s.txFlags ||| 0x80
      ∧ u.rxInfo = true ∧ u.rxPoff.toNat = (if s.txCtrl then s.txPoff else 0)
      ∧ u.rxPlen.toNat = s.txPlen ∧ ∀ k < s.txPlen, u.byte .rpay k = s.byte .tpay k

/-- A decoded Frame copied to the TX side encodes to the same packet from offset 4 on, with the marker before it
(42_decode.md R135). -/
def Obligations.ReencodingGivesThePacketBack : Prop :=
  ∀ s t : State, s.cfg.ok → exec .decode s = .next t → t.err = .none →
    ∃ u, exec .encode (copyToTx t) = .next u ∧ u.err = .none
      ∧ u.txLen.toNat = (if t.rxInfo then 12 + t.rxPlen.toNat else 12)
      ∧ u.bytes .txbuf 0 4 = [0x00, 0x55, 0xAA, 0xFF]
      ∧ ∀ k, 4 ≤ k → k < u.txLen.toNat → u.byte .txbuf k = s.byte .rxbuf k

/-- ENCODE is the function `encode(frame) -> bytes` on the Frame the TX registers hold (00_scope.md R1; 10_state.md R21;
30_encoding.md R60). -/
def Obligations.EncodeMeetsTheFunction : Prop :=
  ∀ s : State, s.cfg.ok →
    (∀ p, (txFrame s).toPacket s.cfg.pbufSize = .ok p →
      ∃ t, exec .encode s = .next t ∧ t.err = .none ∧ t.txValid = true ∧ txPacket t = p)
    ∧ (∀ e, (txFrame s).toPacket s.cfg.pbufSize = .error e →
      exec .encode s = .next { s with err := e, txValid := false })

/-- DECODE and DECODE.NV are the function `decode(bytes, verifyChecksum) -> Frame` on RXBUF[0 .. RX_LEN-1]
(00_scope.md R1; 10_state.md R22). -/
def Obligations.DecodeMeetsTheFunction : Prop :=
  ∀ (s : State) (i : Instr) (verify : Bool), i = .decode ∧ verify = true ∨ i = .decodeNV ∧ verify = false →
    s.cfg.ok → s.rxLen ≤ s.cfg.rbufSize →
    (∀ f, frameOfPacket s.cfg.checkOrder verify (rxPacket s) = .ok f →
      ∃ t, exec i s = .next t ∧ t.err = .none ∧ rxFrame t = some f)
    ∧ (∀ e, frameOfPacket s.cfg.checkOrder verify (rxPacket s) = .error e →
      exec i s = .next { s with err := e, rxValid := false })

/-! ### Errors -/

/-- What a failed operation leaves: the state before it but for `STATUS`, by the table of 60_exceptions.md R165. -/
def Obligations.FailureChangesOnlyStatus : Prop :=
  (∀ (s t : State) (i : Instr), i = .encode ∨ i = .pack ∨ i = .decode ∨ i = .decodeNV →
    exec i s = .next t → t.err ≠ .none →
    (i = .encode → t = { s with err := .invalidFrame, txValid := false })
    ∧ (i = .pack → t = { s with err := .invalidFrame })
    ∧ (i = .decode ∨ i = .decodeNV → s.rxLen ≤ s.cfg.rbufSize →
        (t.err = .truncatedFrame ∨ t.err = .checksumMismatch) ∧ t = { s with err := t.err, rxValid := false })
    ∧ (i = .decode ∨ i = .decodeNV → s.cfg.rbufSize < s.rxLen → t = { s with err := .illegalOp }))
  ∧ ∀ (s : State) (v : Nat) (rest : List Event), s.events = .wr 0x00 v :: rest → valueFits s.cfg 0x00 v = true →
      v % 256 ∉ [0x01, 0x02, 0x12, 0x03] → step s = .next { s with events := rest, err := .illegalOp }

/-- A write of a reserved operation code performs no operation and sets `STATUS.ERR` to 4, changing nothing else
(30_encoding.md R77). -/
def Obligations.ReservedCodeIsIllegalOp : Prop :=
  ∀ (s : State) (v : Nat) (rest : List Event), s.events = .wr 0x00 v :: rest → valueFits s.cfg 0x00 v = true →
    v % 256 ≠ 0x01 → v % 256 ≠ 0x02 → v % 256 ≠ 0x03 → v % 256 ≠ 0x12 →
    ∃ t, step s = .next t ∧ t = { s with events := rest, err := t.err } ∧ readNum t 0x01 % 8 = 4

/-- Which errors each operation raises: ENCODE and PACK InvalidFrame only; DECODE.NV never ChecksumMismatch; neither decode
InvalidFrame; IllegalOp only for `RX_LEN` above RBUF_SIZE (60_exceptions.md R161 to R164). -/
def Obligations.ErrorsOfEachOperation : Prop :=
  ∀ s t : State,
    (exec .encode s = .next t → t.err = .none ∨ t.err = .invalidFrame)
    ∧ (exec .pack s = .next t → t.err = .none ∨ t.err = .invalidFrame)
    ∧ (exec .decode s = .next t → t.err ≠ .invalidFrame ∧ (t.err = .illegalOp → s.cfg.rbufSize < s.rxLen))
    ∧ (exec .decodeNV s = .next t →
        t.err ≠ .invalidFrame ∧ t.err ≠ .checksumMismatch ∧ (t.err = .illegalOp → s.cfg.rbufSize < s.rxLen))

/-- The encoder and the decoder share no state but `STATUS.ERR`: ENCODE and PACK write the TX side only and what they leave there
depends on it only; DECODE and DECODE.NV likewise on the RX side; so an ENCODE or PACK in between changes nothing in what a decode
returns, and the other way round (20_memory.md R52). -/
def Obligations.EncoderAndDecoderAreIndependent : Prop :=
  (∀ (s t : State) (i : Instr), i = .encode ∨ i = .pack → exec i s = .next t →
    (SameRx s t ∧ t.rxValid = s.rxValid)
    ∧ (∀ s' : State, s'.cfg = s.cfg → s'.epoch = s.epoch → SameTx s s' →
        ∃ t', exec i s' = .next t' ∧ SameTx t t' ∧ t'.err = t.err ∧ (s'.txValid = s.txValid → t'.txValid = t.txValid))
    ∧ ∀ (u : State) (j : Instr), j = .decode ∨ j = .decodeNV → exec j s = .next u →
        ∃ v, exec j t = .next v ∧ SameRx u v ∧ v.rxValid = u.rxValid ∧ v.err = u.err)
  ∧ (∀ (s t : State) (i : Instr), i = .decode ∨ i = .decodeNV → exec i s = .next t →
    (SameTx s t ∧ t.txValid = s.txValid)
    ∧ (∀ s' : State, s'.cfg = s.cfg → s'.epoch = s.epoch → SameRx s s' →
        ∃ t', exec i s' = .next t' ∧ SameRx t t' ∧ t'.err = t.err ∧ (s'.rxValid = s.rxValid → t'.rxValid = t.rxValid))
    ∧ ∀ (u : State) (j : Instr), j = .encode ∨ j = .pack → exec j s = .next u →
        ∃ v, exec j t = .next v ∧ SameTx u v ∧ v.txValid = u.txValid ∧ v.err = u.err)

/-! ### The table's data rows -/

/-- A named command, with or without fade, is the command of the Frame to encode; nothing else changes (44_wire_fields.md R151
to R155; that it is delivered to `TX_CMD` is the model's choice, log entry 7). -/
def Obligations.CommandRowsSetTheCommand : Prop :=
  ∀ (s : State) (fade : Bool),
    exec (.cmdNoop fade) s = .next { s with txCmd := if fade then 0x10 else 0x00 }
    ∧ exec (.cmdPatternSimple fade) s = .next { s with txCmd := if fade then 0x11 else 0x01 }
    ∧ exec (.cmdRotate fade) s = .next { s with txCmd := if fade then 0x12 else 0x02 }

/-- A command byte with the fade bit: bit 4 is set, bits 7:5 and 3:0 are the operand's, and nothing else changes
(44_wire_fields.md R155; that it is delivered to `TX_CMD` is the model's choice, log entry 7). -/
def Obligations.FadeRowSetsTheCommand : Prop :=
  ∀ (s : State) (hi : BitVec 3) (lo : BitVec 4),
    exec (.cmdFade (hi ++ lo)) s = .next { s with txCmd := 32 * hi.toNat + 16 + lo.toNat }

/-- A flags byte is the flags of the Frame to encode: bit 7, bits 6:1 and bit 0 as given, and nothing else changes
(44_wire_fields.md R156; that it is delivered to `TX_FLAGS` is the model's choice, log entry 7). -/
def Obligations.FlagsRowSetsTheFlags : Prop :=
  ∀ (s : State) (long : Bool) (unnamed : BitVec 6) (rep : Bool),
    exec (.flags long unnamed rep) s
      = .next { s with txFlags := 128 * long.toNat + 2 * unnamed.toNat + rep.toNat }

/-- An arriving short packet stands in RXBUF by the layout of format A, `RX_LEN` is 12, and nothing else changes
(30_encoding.md R62; 20_memory.md R54). That the row is its arrival is the model's choice (log entries 7, 8). -/
def Obligations.ShortPacketIsPlaced : Prop :=
  ∀ (s : State) (a c : Byte) (u : BitVec 6) (r : Bool) (p0 p1 p2 p3 k : Byte), s.cfg.ok →
    ∃ t, exec (.pktA a c u r p0 p1 p2 p3 k) s = .next t ∧ t = { s with rxbuf := t.rxbuf, rxLen := 12 }
      ∧ t.bytes .rxbuf 0 6 = [0x00, 0x55, 0xAA, 0xFF, a, c]
      ∧ (t.byte .rxbuf 6).toNat = 2 * u.toNat + r.toNat
      ∧ t.bytes .rxbuf 7 5 = [p0, p1, p2, p3, k]
      ∧ SameOutside s t .rxbuf 0 12

/-- An arriving long packet that fits RXBUF stands there by the layout of format B, `RX_LEN` is 12 plus its length, and nothing
else changes; one that does not fit is no host action (30_encoding.md R63; 20_memory.md R41, R54). That the row is its arrival,
and the refusal, are the model's choices (log entries 7, 8, 11). -/
def Obligations.LongPacketIsPlaced : Prop :=
  ∀ (s : State) (a c : Byte) (u : BitVec 6) (r : Bool) (off : BitVec 16) (k : Byte) (body : List Byte),
    body.length ≤ 65535 →
    (12 + body.length ≤ s.cfg.rbufSize →
      ∃ t, exec (.pktB a c u r off k body) s = .next t
        ∧ t = { s with rxbuf := t.rxbuf, rxLen := 12 + body.length }
        ∧ t.bytes .rxbuf 0 6 = [0x00, 0x55, 0xAA, 0xFF, a, c]
        ∧ (t.byte .rxbuf 6).toNat = 128 + 2 * u.toNat + r.toNat
        ∧ (t.byte .rxbuf 7).toNat + 256 * (t.byte .rxbuf 8).toNat = body.length
        ∧ (t.byte .rxbuf 9).toNat + 256 * (t.byte .rxbuf 10).toNat = off.toNat
        ∧ t.byte .rxbuf 11 = k ∧ t.bytes .rxbuf 12 body.length = body
        ∧ SameOutside s t .rxbuf 0 (12 + body.length))
    ∧ (s.cfg.rbufSize < 12 + body.length → exec (.pktB a c u r off k body) s = .refused (.noSuchByte .rxbuf))

/-- A short packet that has arrived with a right checksum is decoded to the fields it carries (30_encoding.md R62, R66; that the row is its arrival is the model's choice, log entry 7). -/
def Obligations.ArrivedShortPacketDecodes : Prop :=
  ∀ (s : State) (a c : Byte) (u : BitVec 6) (r : Bool) (p0 p1 p2 p3 k : Byte), s.cfg.ok →
    k = a ^^^ c ^^^ (BitVec.ofBool false ++ u ++ BitVec.ofBool r) ^^^ p0 ^^^ p1 ^^^ p2 ^^^ p3 →
    ∃ t v, exec (.pktA a c u r p0 p1 p2 p3 k) s = .next t ∧ exec .decode t = .next v ∧ v.rxValid = true
      ∧ rxFrame v = some { memberAddress := a.toNat, command := c.toNat, flags := 2 * u.toNat + r.toNat
                           payload := [p0, p1, p2, p3], payloadOffset := none }

/-- A long packet that has arrived with a right checksum is decoded to the fields and the body it carries
(30_encoding.md R63, R66; that the row is its arrival is the model's choice, log entry 7). -/
def Obligations.ArrivedLongPacketDecodes : Prop :=
  ∀ (s : State) (a c : Byte) (u : BitVec 6) (r : Bool) (off : BitVec 16) (k : Byte) (body : List Byte), s.cfg.ok →
    12 + body.length ≤ s.cfg.rbufSize →
    k = a ^^^ c ^^^ (BitVec.ofBool true ++ u ++ BitVec.ofBool r) ^^^ BitVec.ofNat 8 body.length
        ^^^ BitVec.ofNat 8 (body.length / 256) ^^^ BitVec.ofNat 8 off.toNat ^^^ BitVec.ofNat 8 (off.toNat / 256) →
    ∃ t v, exec (.pktB a c u r off k body) s = .next t ∧ exec .decode t = .next v ∧ v.rxValid = true
      ∧ rxFrame v = some { memberAddress := a.toNat, command := c.toNat, flags := 128 + 2 * u.toNat + r.toNat
                           payload := body, payloadOffset := some off.toNat }
end

