-- ==== Sys2Proof/Laws/Memory.lean ====
section
/-! SUPPORT. Laws of the buffers as data: what a read gives after a write, and that a write keeps the canonical form and the
size. -/

namespace Sys2Proof.Machine

theorem Memory.read_append (m m' : Memory) (i : Nat) : Memory.read (m ++ m') i = (Memory.read m i).or (Memory.read m' i) := by
  induction m with
  | nil => simp [Memory.read]
  | cons c m ih =>
    simp only [List.cons_append, Memory.read]
    split <;> simp [ih]

theorem Memory.read_eq_none (m : Memory) (i : Nat) (h : ∀ c ∈ m, c.1 ≠ i) : Memory.read m i = none := by
  induction m with
  | nil => rfl
  | cons c m ih =>
    have hc : c.1 ≠ i := h c (by simp)
    simp only [Memory.read, if_neg hc]
    exact ih fun d hd => h d (by simp [hd])

theorem Memory.read_filter (p : Nat → Bool) (m : Memory) (i : Nat) :
    Memory.read (m.filter (fun c => p c.1)) i = if p i then Memory.read m i else none := by
  induction m with
  | nil => simp [Memory.read]
  | cons c m ih =>
    by_cases hc : c.1 = i
    · subst hc
      by_cases hp : p c.1 = true <;> simp [Memory.read, hp] at ih ⊢
      simpa using ih
    · by_cases hp : p c.1 = true <;> simp [Memory.read, hp, hc, ih]

theorem Memory.number_index (i : Nat) (bs : List Byte) (c : Host.Cell) (h : c ∈ Memory.number i bs) :
    i ≤ c.1 ∧ c.1 < i + bs.length := by
  induction bs generalizing i with
  | nil => simp [Memory.number] at h
  | cons b bs ih =>
    simp only [Memory.number, List.mem_cons] at h
    rcases h with rfl | h
    · simp
    · have := ih (i + 1) h
      simp only [List.length_cons]
      omega

theorem Memory.read_number (i : Nat) (bs : List Byte) (k : Nat) (h : k < bs.length) :
    Memory.read (Memory.number i bs) (i + k) = some bs[k] := by
  induction bs generalizing i k with
  | nil => simp at h
  | cons b bs ih =>
    cases k with
    | zero => simp [Memory.number, Memory.read]
    | succ k =>
      have hk : k < bs.length := by simpa using h
      have := ih (i + 1) k hk
      simp only [Memory.number, Memory.read, List.getElem_cons_succ]
      rw [if_neg (by omega), ← this]
      congr 1
      omega

/-- A read of a written index gives the byte written there. -/
theorem Memory.read_write_inside (m : Memory) (i : Nat) (bs : List Byte) (k : Nat) (h : k < bs.length) :
    Memory.read (m.write i bs) (i + k) = some bs[k] := by
  have h₁ := Memory.read_filter (fun x => decide (x < i)) m (i + k)
  have hlow : ¬ (i + k < i) := by omega
  simp only [hlow, decide_false, Bool.false_eq_true, if_false] at h₁
  simp [Memory.write, Memory.read_append, h₁, Memory.read_number i bs k h]

/-- A write leaves every other index alone. -/
theorem Memory.read_write_outside (m : Memory) (i : Nat) (bs : List Byte) (a : Nat) (h : a < i ∨ i + bs.length ≤ a) :
    Memory.read (m.write i bs) a = Memory.read m a := by
  have h₁ := Memory.read_filter (fun x => decide (x < i)) m a
  have h₂ := Memory.read_filter (fun x => decide (i + bs.length ≤ x)) m a
  have h₃ : Memory.read (Memory.number i bs) a = none :=
    Memory.read_eq_none _ _ fun c hc => by have := Memory.number_index i bs c hc; omega
  simp only [Memory.write, Memory.read_append, h₁, h₂, h₃]
  rcases h with h | h
  · have : ¬ i + bs.length ≤ a := by omega
    simp [h, this]
  · have : ¬ a < i := by omega
    simp [h, this]

theorem Memory.number_wf (i : Nat) (bs : List Byte) : (Memory.number i bs).wf := by
  induction bs generalizing i with
  | nil => simp [Memory.number]
  | cons b bs ih =>
    simp only [Memory.number, Memory.wf, List.pairwise_cons]
    refine ⟨fun c hc => ?_, ih (i + 1)⟩
    have := Memory.number_index (i + 1) bs c hc
    omega

/-- A write keeps the canonical form. -/
theorem Memory.write_wf (m : Memory) (i : Nat) (bs : List Byte) (h : m.wf) : (m.write i bs).wf := by
  simp only [Memory.write, Memory.wf, List.pairwise_append]
  refine ⟨⟨h.filter _, Memory.number_wf i bs, ?_⟩, h.filter _, ?_⟩
  · intro c hc d hd
    have := Memory.number_index i bs d hd
    simp only [List.mem_filter, decide_eq_true_eq] at hc
    omega
  · intro c hc d hd
    simp only [List.mem_append, List.mem_filter, decide_eq_true_eq] at hc hd
    rcases hc with hc | hc
    · omega
    · have := Memory.number_index i bs c hc
      omega

/-- A write inside a buffer keeps its size. -/
theorem Memory.write_within (m : Memory) (i : Nat) (bs : List Byte) (size : Nat) (h : m.within size)
    (hi : i + bs.length ≤ size) : (m.write i bs).within size := by
  intro c hc
  simp only [Memory.write, List.mem_append, List.mem_filter] at hc
  rcases hc with (hc | hc) | hc
  · exact h c hc.1
  · have := Memory.number_index i bs c hc
    omega
  · exact h c hc.1

/-- Writing the same bytes again changes nothing. -/
theorem Memory.write_write_same (m : Memory) (i : Nat) (bs : List Byte) : (m.write i bs).write i bs = m.write i bs := by
  have hn : ∀ c ∈ Memory.number i bs, ¬ c.1 < i ∧ ¬ i + bs.length ≤ c.1 := fun c hc => by
    have := Memory.number_index i bs c hc
    omega
  have h₁ : (Memory.number i bs).filter (fun c => c.1 < i) = [] :=
    List.filter_eq_nil_iff.2 fun c hc => by simpa using (hn c hc).1
  have h₂ : (Memory.number i bs).filter (fun c => i + bs.length ≤ c.1) = [] :=
    List.filter_eq_nil_iff.2 fun c hc => by simpa using (hn c hc).2
  have h₃ : m.filter (fun c => decide (c.1 < i) && decide (i + bs.length ≤ c.1)) = [] :=
    List.filter_eq_nil_iff.2 fun c _ => by simp; omega
  have h₄ : m.filter (fun c => decide (i + bs.length ≤ c.1) && decide (c.1 < i)) = [] :=
    List.filter_eq_nil_iff.2 fun c _ => by simp; omega
  simp [Memory.write, List.filter_append, List.filter_filter, h₁, h₂, h₃, h₄]

/-- Two buffers in canonical form that read alike are the same data. -/
theorem Memory.ext_of_wf {m m' : Memory} (h : m.wf) (h' : m'.wf) (e : ∀ i, m.read i = m'.read i) : m = m' := by
  induction m generalizing m' with
  | nil =>
    cases m' with
    | nil => rfl
    | cons c m' => simpa [Memory.read] using e c.1
  | cons c m ih =>
    cases m' with
    | nil => simpa [Memory.read] using e c.1
    | cons d m' =>
      obtain ⟨hc, hm⟩ := List.pairwise_cons.1 h
      obtain ⟨hd, hm'⟩ := List.pairwise_cons.1 h'
      have hn : ∀ i ≤ c.1, Memory.read m i = none := fun i hi =>
        Memory.read_eq_none _ _ fun x hx => by have := hc x hx; omega
      have hn' : ∀ i ≤ d.1, Memory.read m' i = none := fun i hi =>
        Memory.read_eq_none _ _ fun x hx => by have := hd x hx; omega
      have hk : c.1 = d.1 := by
        rcases Nat.lt_trichotomy c.1 d.1 with hlt | heq | hgt
        · have := e c.1
          simp [Memory.read, Nat.ne_of_gt hlt, hn' c.1 (by omega)] at this
        · exact heq
        · have := e d.1
          simp [Memory.read, Nat.ne_of_gt hgt, hn d.1 (by omega)] at this
      have hb : c.2 = d.2 := by simpa [Memory.read, hk] using e d.1
      have hcd : c = d := Prod.ext hk hb
      subst hcd
      congr 1
      refine ih hm hm' fun i => ?_
      by_cases hi : c.1 = i
      · subst hi
        rw [hn c.1 (Nat.le_refl _), hn' c.1 (Nat.le_refl _)]
      · simpa [Memory.read, hi] using e i

end Sys2Proof.Machine
end

