-- ==== Sys2Proof/Laws/State.lean ====
section
/-! SUPPORT. Laws of the state: what each field and each buffer byte is after a store and after a failed operation, and that both
keep the canonical form. -/

namespace Sys2Proof.Machine

/-! ### One lemma per field after `State.store` -/

@[simp] theorem store_cfg (s : State) (sp : Space) (i : Nat) (bs : List Byte) : (s.store sp i bs).cfg = s.cfg := by
  cases sp <;> rfl

@[simp] theorem store_err (s : State) (sp : Space) (i : Nat) (bs : List Byte) : (s.store sp i bs).err = s.err := by
  cases sp <;> rfl

@[simp] theorem store_txValid (s : State) (sp : Space) (i : Nat) (bs : List Byte) : (s.store sp i bs).txValid = s.txValid := by
  cases sp <;> rfl

@[simp] theorem store_rxValid (s : State) (sp : Space) (i : Nat) (bs : List Byte) : (s.store sp i bs).rxValid = s.rxValid := by
  cases sp <;> rfl

@[simp] theorem store_txAddr (s : State) (sp : Space) (i : Nat) (bs : List Byte) : (s.store sp i bs).txAddr = s.txAddr := by
  cases sp <;> rfl

@[simp] theorem store_txCmd (s : State) (sp : Space) (i : Nat) (bs : List Byte) : (s.store sp i bs).txCmd = s.txCmd := by
  cases sp <;> rfl

@[simp] theorem store_txFlags (s : State) (sp : Space) (i : Nat) (bs : List Byte) : (s.store sp i bs).txFlags = s.txFlags := by
  cases sp <;> rfl

@[simp] theorem store_txPlen (s : State) (sp : Space) (i : Nat) (bs : List Byte) : (s.store sp i bs).txPlen = s.txPlen := by
  cases sp <;> rfl

@[simp] theorem store_txPoff (s : State) (sp : Space) (i : Nat) (bs : List Byte) : (s.store sp i bs).txPoff = s.txPoff := by
  cases sp <;> rfl

@[simp] theorem store_txCtrl (s : State) (sp : Space) (i : Nat) (bs : List Byte) : (s.store sp i bs).txCtrl = s.txCtrl := by
  cases sp <;> rfl

@[simp] theorem store_txLen (s : State) (sp : Space) (i : Nat) (bs : List Byte) : (s.store sp i bs).txLen = s.txLen := by
  cases sp <;> rfl

@[simp] theorem store_color (s : State) (sp : Space) (i : Nat) (bs : List Byte) : (s.store sp i bs).color = s.color := by
  cases sp <;> rfl

@[simp] theorem store_packPtr (s : State) (sp : Space) (i : Nat) (bs : List Byte) : (s.store sp i bs).packPtr = s.packPtr := by
  cases sp <;> rfl

@[simp] theorem store_rxLen (s : State) (sp : Space) (i : Nat) (bs : List Byte) : (s.store sp i bs).rxLen = s.rxLen := by
  cases sp <;> rfl

@[simp] theorem store_rxAddr (s : State) (sp : Space) (i : Nat) (bs : List Byte) : (s.store sp i bs).rxAddr = s.rxAddr := by
  cases sp <;> rfl

@[simp] theorem store_rxCmd (s : State) (sp : Space) (i : Nat) (bs : List Byte) : (s.store sp i bs).rxCmd = s.rxCmd := by
  cases sp <;> rfl

@[simp] theorem store_rxFlags (s : State) (sp : Space) (i : Nat) (bs : List Byte) : (s.store sp i bs).rxFlags = s.rxFlags := by
  cases sp <;> rfl

@[simp] theorem store_rxPlen (s : State) (sp : Space) (i : Nat) (bs : List Byte) : (s.store sp i bs).rxPlen = s.rxPlen := by
  cases sp <;> rfl

@[simp] theorem store_rxPoff (s : State) (sp : Space) (i : Nat) (bs : List Byte) : (s.store sp i bs).rxPoff = s.rxPoff := by
  cases sp <;> rfl

@[simp] theorem store_rxInfo (s : State) (sp : Space) (i : Nat) (bs : List Byte) : (s.store sp i bs).rxInfo = s.rxInfo := by
  cases sp <;> rfl

@[simp] theorem store_epoch (s : State) (sp : Space) (i : Nat) (bs : List Byte) : (s.store sp i bs).epoch = s.epoch := by
  cases sp <;> rfl

@[simp] theorem store_events (s : State) (sp : Space) (i : Nat) (bs : List Byte) : (s.store sp i bs).events = s.events := by
  cases sp <;> rfl

@[simp] theorem store_replies (s : State) (sp : Space) (i : Nat) (bs : List Byte) : (s.store sp i bs).replies = s.replies := by
  cases sp <;> rfl

@[simp] theorem store_tpay_tpay (s : State) (i : Nat) (bs : List Byte) : (s.store .tpay i bs).tpay = s.tpay.write i bs := rfl

@[simp] theorem store_txbuf_tpay (s : State) (i : Nat) (bs : List Byte) : (s.store .txbuf i bs).tpay = s.tpay := rfl

@[simp] theorem store_rxbuf_tpay (s : State) (i : Nat) (bs : List Byte) : (s.store .rxbuf i bs).tpay = s.tpay := rfl

@[simp] theorem store_rpay_tpay (s : State) (i : Nat) (bs : List Byte) : (s.store .rpay i bs).tpay = s.tpay := rfl

@[simp] theorem store_tpay_txbuf (s : State) (i : Nat) (bs : List Byte) : (s.store .tpay i bs).txbuf = s.txbuf := rfl

@[simp] theorem store_txbuf_txbuf (s : State) (i : Nat) (bs : List Byte) : (s.store .txbuf i bs).txbuf = s.txbuf.write i bs := rfl

@[simp] theorem store_rxbuf_txbuf (s : State) (i : Nat) (bs : List Byte) : (s.store .rxbuf i bs).txbuf = s.txbuf := rfl

@[simp] theorem store_rpay_txbuf (s : State) (i : Nat) (bs : List Byte) : (s.store .rpay i bs).txbuf = s.txbuf := rfl

@[simp] theorem store_tpay_rxbuf (s : State) (i : Nat) (bs : List Byte) : (s.store .tpay i bs).rxbuf = s.rxbuf := rfl

@[simp] theorem store_txbuf_rxbuf (s : State) (i : Nat) (bs : List Byte) : (s.store .txbuf i bs).rxbuf = s.rxbuf := rfl

@[simp] theorem store_rxbuf_rxbuf (s : State) (i : Nat) (bs : List Byte) : (s.store .rxbuf i bs).rxbuf = s.rxbuf.write i bs := rfl

@[simp] theorem store_rpay_rxbuf (s : State) (i : Nat) (bs : List Byte) : (s.store .rpay i bs).rxbuf = s.rxbuf := rfl

@[simp] theorem store_tpay_rpay (s : State) (i : Nat) (bs : List Byte) : (s.store .tpay i bs).rpay = s.rpay := rfl

@[simp] theorem store_txbuf_rpay (s : State) (i : Nat) (bs : List Byte) : (s.store .txbuf i bs).rpay = s.rpay := rfl

@[simp] theorem store_rxbuf_rpay (s : State) (i : Nat) (bs : List Byte) : (s.store .rxbuf i bs).rpay = s.rpay := rfl

@[simp] theorem store_rpay_rpay (s : State) (i : Nat) (bs : List Byte) : (s.store .rpay i bs).rpay = s.rpay.write i bs := rfl

/-! ### One lemma per field after `raise` -/

@[simp] theorem raise_cfg (op : Operation) (e : Err) (s : State) : (raise op e s).cfg = s.cfg := rfl

@[simp] theorem raise_err (op : Operation) (e : Err) (s : State) : (raise op e s).err = e := rfl

@[simp] theorem raise_txValid (op : Operation) (e : Err) (s : State) : (raise op e s).txValid = (s.txValid && !clearsTxValid op e) := rfl

@[simp] theorem raise_rxValid (op : Operation) (e : Err) (s : State) : (raise op e s).rxValid = (s.rxValid && !clearsRxValid op e) := rfl

@[simp] theorem raise_txAddr (op : Operation) (e : Err) (s : State) : (raise op e s).txAddr = s.txAddr := rfl

@[simp] theorem raise_txCmd (op : Operation) (e : Err) (s : State) : (raise op e s).txCmd = s.txCmd := rfl

@[simp] theorem raise_txFlags (op : Operation) (e : Err) (s : State) : (raise op e s).txFlags = s.txFlags := rfl

@[simp] theorem raise_txPlen (op : Operation) (e : Err) (s : State) : (raise op e s).txPlen = s.txPlen := rfl

@[simp] theorem raise_txPoff (op : Operation) (e : Err) (s : State) : (raise op e s).txPoff = s.txPoff := rfl

@[simp] theorem raise_txCtrl (op : Operation) (e : Err) (s : State) : (raise op e s).txCtrl = s.txCtrl := rfl

@[simp] theorem raise_txLen (op : Operation) (e : Err) (s : State) : (raise op e s).txLen = s.txLen := rfl

@[simp] theorem raise_color (op : Operation) (e : Err) (s : State) : (raise op e s).color = s.color := rfl

@[simp] theorem raise_packPtr (op : Operation) (e : Err) (s : State) : (raise op e s).packPtr = s.packPtr := rfl

@[simp] theorem raise_rxLen (op : Operation) (e : Err) (s : State) : (raise op e s).rxLen = s.rxLen := rfl

@[simp] theorem raise_rxAddr (op : Operation) (e : Err) (s : State) : (raise op e s).rxAddr = s.rxAddr := rfl

@[simp] theorem raise_rxCmd (op : Operation) (e : Err) (s : State) : (raise op e s).rxCmd = s.rxCmd := rfl

@[simp] theorem raise_rxFlags (op : Operation) (e : Err) (s : State) : (raise op e s).rxFlags = s.rxFlags := rfl

@[simp] theorem raise_rxPlen (op : Operation) (e : Err) (s : State) : (raise op e s).rxPlen = s.rxPlen := rfl

@[simp] theorem raise_rxPoff (op : Operation) (e : Err) (s : State) : (raise op e s).rxPoff = s.rxPoff := rfl

@[simp] theorem raise_rxInfo (op : Operation) (e : Err) (s : State) : (raise op e s).rxInfo = s.rxInfo := rfl

@[simp] theorem raise_tpay (op : Operation) (e : Err) (s : State) : (raise op e s).tpay = s.tpay := rfl

@[simp] theorem raise_txbuf (op : Operation) (e : Err) (s : State) : (raise op e s).txbuf = s.txbuf := rfl

@[simp] theorem raise_rxbuf (op : Operation) (e : Err) (s : State) : (raise op e s).rxbuf = s.rxbuf := rfl

@[simp] theorem raise_rpay (op : Operation) (e : Err) (s : State) : (raise op e s).rpay = s.rpay := rfl

@[simp] theorem raise_epoch (op : Operation) (e : Err) (s : State) : (raise op e s).epoch = s.epoch := rfl

@[simp] theorem raise_events (op : Operation) (e : Err) (s : State) : (raise op e s).events = s.events := rfl

@[simp] theorem raise_replies (op : Operation) (e : Err) (s : State) : (raise op e s).replies = s.replies := rfl

/-! ### Buffers -/

@[simp] theorem mem_tpay (s : State) : s.mem .tpay = s.tpay := rfl

@[simp] theorem mem_txbuf (s : State) : s.mem .txbuf = s.txbuf := rfl

@[simp] theorem mem_rxbuf (s : State) : s.mem .rxbuf = s.rxbuf := rfl

@[simp] theorem mem_rpay (s : State) : s.mem .rpay = s.rpay := rfl

@[simp] theorem mem_raise (op : Operation) (e : Err) (s : State) (sp : Space) : (raise op e s).mem sp = s.mem sp := by
  cases sp <;> rfl

theorem mem_store_same (s : State) (sp : Space) (i : Nat) (bs : List Byte) :
    (s.store sp i bs).mem sp = (s.mem sp).write i bs := by
  cases sp <;> rfl

theorem mem_store_other (s : State) (sp sq : Space) (i : Nat) (bs : List Byte) (h : sq ≠ sp) :
    (s.store sp i bs).mem sq = s.mem sq := by
  cases sp <;> cases sq <;> first | rfl | exact absurd rfl h

/-- A byte depends on the buffer's contents and the reset count only. -/
theorem byte_congr {s t : State} {sp : Space} (hm : t.mem sp = s.mem sp) (he : t.epoch = s.epoch) (i : Nat) :
    t.byte sp i = s.byte sp i := by
  simp only [State.byte, hm, he]

theorem bytes_congr {s t : State} {sp : Space} (hm : t.mem sp = s.mem sp) (he : t.epoch = s.epoch) (i n : Nat) :
    t.bytes sp i n = s.bytes sp i n := by
  simp only [State.bytes, byte_congr hm he]

/-- A stored byte reads back. -/
theorem byte_store_inside (s : State) (sp : Space) (i : Nat) (bs : List Byte) (k : Nat) (h : k < bs.length) :
    (s.store sp i bs).byte sp (i + k) = bs[k] := by
  simp only [State.byte, mem_store_same, Memory.read_write_inside _ _ _ _ h]

/-- A stored byte reads back, for a store from index 0. -/
theorem byte_store_zero (s : State) (sp : Space) (bs : List Byte) (k : Nat) (h : k < bs.length) :
    (s.store sp 0 bs).byte sp k = bs[k] := by
  have := byte_store_inside s sp 0 bs k h
  rwa [Nat.zero_add] at this

/-- A store leaves every byte outside it alone. -/
theorem byte_store_outside (s : State) (sp : Space) (i : Nat) (bs : List Byte) (a : Nat) (h : a < i ∨ i + bs.length ≤ a) :
    (s.store sp i bs).byte sp a = s.byte sp a := by
  simp only [State.byte, mem_store_same, Memory.read_write_outside _ _ _ _ h, store_epoch]

/-- A store leaves every other space alone. -/
theorem byte_store_other (s : State) (sp sq : Space) (i : Nat) (bs : List Byte) (a : Nat) (h : sq ≠ sp) :
    (s.store sp i bs).byte sq a = s.byte sq a :=
  byte_congr (mem_store_other s sp sq i bs h) (store_epoch s sp i bs) a

@[simp] theorem length_bytes (s : State) (sp : Space) (i n : Nat) : (s.bytes sp i n).length = n := by
  simp [State.bytes]

@[simp] theorem getElem_bytes (s : State) (sp : Space) (i n k : Nat) (h : k < (s.bytes sp i n).length) :
    (s.bytes sp i n)[k] = s.byte sp (i + k) := by
  simp [State.bytes]

theorem bytes_eq_of_byte {s t : State} {sp sq : Space} {i j n : Nat}
    (h : ∀ k < n, s.byte sp (i + k) = t.byte sq (j + k)) : s.bytes sp i n = t.bytes sq j n := by
  simp only [State.bytes]
  exact List.map_congr_left fun k hk => h k (List.mem_range.1 hk)

/-- Bytes that were stored were written. -/
theorem written_store (s : State) (sp : Space) (i : Nat) (bs : List Byte) (k : Nat) (h : k < bs.length) :
    (s.store sp i bs).written sp (i + k) :=
  ⟨bs[k], by rw [mem_store_same, Memory.read_write_inside _ _ _ _ h]⟩

/-! ### The canonical form -/

/-- A store inside its space keeps every buffer in canonical form and in its space. -/
theorem store_memOk (s : State) (sp : Space) (i : Nat) (bs : List Byte) (h : s.memOk)
    (hi : i + bs.length ≤ spaceSize s.cfg sp) : (s.store sp i bs).memOk := by
  intro sq
  by_cases hq : sq = sp
  · subst hq
    rw [mem_store_same, store_cfg]
    exact ⟨Memory.write_wf _ _ _ (h sq).1, Memory.write_within _ _ _ _ (h sq).2 hi⟩
  · rw [mem_store_other s sp sq i bs hq, store_cfg]
    exact h sq

/-- A state with the same buffers and parameters has them in canonical form too. -/
theorem memOk_congr {s t : State} (h : s.memOk) (hm : ∀ sp, t.mem sp = s.mem sp) (hc : t.cfg = s.cfg) : t.memOk := by
  intro sp
  rw [hm sp, hc]
  exact h sp

theorem reset_memOk (cfg : Config) (n : Nat) (es : List Event) (rs : List Nat) : (State.afterReset cfg n es rs).memOk := by
  intro sp
  cases sp <;> exact ⟨List.Pairwise.nil, by simp [State.mem, State.afterReset]⟩

end Sys2Proof.Machine
end

