-- ==== Sys2Proof/Laws/Codec.lean ====
section
/-! SUPPORT. What each operation can do, said once: the result of ENCODE in each mode, of a decode in each case, of PACK, and of
the delivery of received bytes. Later proofs cite these and do not unfold the operations. -/

namespace Sys2Proof.Machine

theorem touching_next {s t : State} {sp : Space} {i n : Nat} {go : Host.Outcome State Fault Refusal}
    (h : touching s sp i n go = .next t) : i + n ≤ spaceSize s.cfg sp ∧ go = .next t := by
  by_cases hi : i + n ≤ spaceSize s.cfg sp
  · simpa [touching, inSpace, hi] using h
  · simp [touching, inSpace, hi] at h

theorem touching_ok {s : State} {sp : Space} {i n : Nat} {go : Host.Outcome State Fault Refusal}
    (h : i + n ≤ spaceSize s.cfg sp) : touching s sp i n go = go := by
  simp [touching, inSpace, h]

/-! ### ENCODE -/

/-- The packet ENCODE builds, in either mode (41_encode.md R100). -/
def encodedPacket (s : State) : List Byte :=
  if longMode s then marker ++ (longHeader s).bytes ++ s.bytes .tpay 0 s.txPlen else marker ++ (shortHeader s).bytes

theorem length_encodedPacket (s : State) : (encodedPacket s).length = if longMode s then 12 + s.txPlen else 12 := by
  by_cases h : longMode s = true
  · simp [encodedPacket, h, marker, Header.bytes]
    omega
  · simp [encodedPacket, h, marker, Header.bytes]

/-- The state a successful ENCODE leaves. -/
def encoded (s : State) : State :=
  { s.store .txbuf 0 (encodedPacket s) with
    txLen := BitVec.ofNat 17 (encodedPacket s).length, err := .none, txValid := true }

theorem frameInvalid_false {s : State} (h : frameInvalid s = false) :
    s.txAddr ≤ 255 ∧ s.txCmd ≤ 255 ∧ s.txFlags ≤ 255 ∧ s.txPlen ≤ 65535 ∧ (s.txCtrl = true → s.txPoff ≤ 65535)
      ∧ s.txPlen ≤ s.cfg.pbufSize := by
  simp only [frameInvalid, Bool.or_eq_false_iff, Bool.and_eq_false_iff, decide_eq_false_iff_not, Nat.not_lt] at h
  obtain ⟨⟨⟨⟨⟨h₁, h₂⟩, h₃⟩, h₄⟩, h₅⟩, h₆⟩ := h
  refine ⟨h₁, h₂, h₃, h₄, fun hc => ?_, h₆⟩
  rcases h₅ with h₅ | h₅
  · simp [hc] at h₅
  · exact h₅

theorem execEncode_invalid {s : State} (h : frameInvalid s = true) :
    execEncode s = .next (raise .encode .invalidFrame s) := by
  simp [execEncode, h]

theorem execEncode_valid {s : State} (h : frameInvalid s = false) : execEncode s = .next (encoded s) := by
  have hp := (frameInvalid_false h).2.2.2.2.2
  have hl := length_encodedPacket s
  by_cases hm : longMode s = true
  · simp only [hm, if_true] at hl
    simp only [execEncode, h, hm, Bool.false_eq_true, if_false, if_true]
    rw [touching_ok (by simpa [spaceSize] using hp)]
    have he : marker ++ (longHeader s).bytes ++ s.bytes .tpay 0 s.txPlen = encodedPacket s := by simp [encodedPacket, hm]
    rw [he, commitPacket, touching_ok (by simp [spaceSize, hl]; omega)]
    rfl
  · simp only [hm, Bool.false_eq_true, if_false] at hl
    simp only [execEncode, h, hm, Bool.false_eq_true, if_false]
    rw [touching_ok (by simpa [spaceSize] using hp)]
    have he : marker ++ (shortHeader s).bytes = encodedPacket s := by simp [encodedPacket, hm]
    rw [he, commitPacket, touching_ok (by simp [spaceSize, hl])]
    rfl

/-- ENCODE answers a next state, whatever the registers hold: its packet, or InvalidFrame. -/
theorem execEncode_cases (s : State) :
    (frameInvalid s = true ∧ execEncode s = .next (raise .encode .invalidFrame s))
      ∨ (frameInvalid s = false ∧ execEncode s = .next (encoded s)) := by
  cases h : frameInvalid s
  · exact .inr ⟨rfl, execEncode_valid h⟩
  · exact .inl ⟨rfl, execEncode_invalid h⟩

theorem encoded_txLen {s : State} (h : frameInvalid s = false) :
    (encoded s).txLen.toNat = if longMode s then 12 + s.txPlen else 12 := by
  have hp := (frameInvalid_false h).2.2.2.1
  have hl := length_encodedPacket s
  simp only [encoded, BitVec.toNat_ofNat, hl]
  by_cases hm : longMode s = true
  · simp only [hm, if_true]
    omega
  · simp [hm]

theorem encoded_byte {s : State} (k : Nat) (h : k < (encodedPacket s).length) :
    (encoded s).byte .txbuf k = (encodedPacket s)[k] :=
  (byte_congr rfl rfl k).trans (byte_store_zero s .txbuf _ k h)

/-! ### DECODE and DECODE.NV -/

/-- The state a successful decode of a short packet leaves. -/
def decodedShort (s : State) : State :=
  { s.store .rpay 0 [(rxHeader s).x7, (rxHeader s).x8, (rxHeader s).x9, (rxHeader s).x10] with
    rxAddr := (rxHeader s).addr, rxCmd := (rxHeader s).cmd, rxFlags := (rxHeader s).flags, rxPlen := 4, rxPoff := 0
    rxInfo := false, err := .none, rxValid := true }

/-- The state a successful decode of a long packet leaves. -/
def decodedLong (s : State) : State :=
  { s.store .rpay 0 (s.bytes .rxbuf 12 (rxHeader s).length.toNat) with
    rxAddr := (rxHeader s).addr, rxCmd := (rxHeader s).cmd, rxFlags := (rxHeader s).flags
    rxPlen := (rxHeader s).length, rxPoff := (rxHeader s).offset, rxInfo := true, err := .none, rxValid := true }

/-- The state a successful decode leaves. -/
def decoded (s : State) : State := if (rxHeader s).long then decodedLong s else decodedShort s

theorem decodeError_none {order : CheckOrder} {bad short : Bool} (h : decodeError order bad short = none) :
    bad = false ∧ short = false := by
  cases order <;> cases bad <;> cases short <;> simp [decodeError] at h ⊢

theorem decodeError_some {order : CheckOrder} {bad short : Bool} {e : Err} (h : decodeError order bad short = some e) :
    (e = .checksumMismatch ∧ bad = true) ∨ (e = .truncatedFrame ∧ short = true) := by
  cases order <;> cases bad <;> cases short <;> simp_all [decodeError]

theorem unle16_toNat (b0 b1 : Byte) : (unle16 b0 b1).toNat = b0.toNat + 256 * b1.toNat := by
  have h0 := b0.isLt
  have h1 := b1.isLt
  simp only [unle16, BitVec.toNat_append]
  rw [← Nat.shiftLeft_add_eq_or_of_lt h0, Nat.shiftLeft_eq]
  omega

/-- The body announced by a long header that passes the length test is inside RXBUF and RPAY (42_decode.md R130). -/
theorem body_fits {s : State} (hc : s.cfg.ok) (hn : s.rxLen ≤ s.cfg.rbufSize)
    (hs : bodyShort s.rxLen (rxHeader s) = false) (hl : (rxHeader s).long = true) :
    12 + (rxHeader s).length.toNat ≤ s.rxLen ∧ (rxHeader s).length.toNat ≤ s.cfg.pbufSize := by
  simp only [bodyShort, hl, Bool.true_and, decide_eq_false_iff_not, Nat.not_lt] at hs
  obtain ⟨_, _, _, _, h⟩ := hc
  omega

/-- What a decode answers when its 12 header bytes are there: the one error, or the Frame. -/
theorem decodeWith_header {op : Operation} {verify : Bool} {s : State} (hc : s.cfg.ok) (hn : s.rxLen ≤ s.cfg.rbufSize)
    (h12 : 12 ≤ s.rxLen) :
    decodeWith op verify s =
      match decodeError s.cfg.checkOrder (sumBad verify (rxHeader s)) (bodyShort s.rxLen (rxHeader s)) with
      | some e => .next (raise op e s)
      | none => .next (decoded s) := by
  have hr : 4 + 8 ≤ spaceSize s.cfg .rxbuf := by simp only [spaceSize]; omega
  cases he : decodeError s.cfg.checkOrder (sumBad verify (rxHeader s)) (bodyShort s.rxLen (rxHeader s)) with
  | some e => simp only [decodeWith, Nat.not_lt.2 hn, Nat.not_lt.2 h12, if_false, touching_ok hr, he]
  | none =>
    have hs := (decodeError_none he).2
    simp only [decodeWith, Nat.not_lt.2 hn, Nat.not_lt.2 h12, if_false, touching_ok hr, he]
    by_cases hl : (rxHeader s).long = true
    · obtain ⟨h₁, h₂⟩ := body_fits hc hn hs hl
      have hx : 12 + (rxHeader s).length.toNat ≤ spaceSize s.cfg .rxbuf := by simp only [spaceSize]; omega
      have hy : 0 + (rxHeader s).length.toNat ≤ spaceSize s.cfg .rpay := by simp only [spaceSize]; omega
      simp only [hl, if_true, commitLongFrame, touching_ok hx, touching_ok hy, decoded, decodedLong]
    · have hy : 0 + 4 ≤ spaceSize s.cfg .rpay := by
        obtain ⟨_, h4, _⟩ := hc
        simpa only [spaceSize, Nat.zero_add] using h4
      simp only [hl, Bool.false_eq_true, if_false, commitShortFrame, touching_ok hy, decoded, decodedShort]

/-- Every way a decode answers a next state, for any parameters. -/
theorem decodeWith_next {op : Operation} {verify : Bool} {s t : State} (h : decodeWith op verify s = .next t) :
    (s.cfg.rbufSize < s.rxLen ∧ t = raise op .illegalOp s)
      ∨ (s.rxLen ≤ s.cfg.rbufSize ∧ s.rxLen < 12 ∧ t = raise op .truncatedFrame s)
      ∨ (s.rxLen ≤ s.cfg.rbufSize ∧ 12 ≤ s.rxLen
          ∧ ∃ e, decodeError s.cfg.checkOrder (sumBad verify (rxHeader s)) (bodyShort s.rxLen (rxHeader s)) = some e
            ∧ t = raise op e s)
      ∨ (s.rxLen ≤ s.cfg.rbufSize ∧ 12 ≤ s.rxLen ∧ sumBad verify (rxHeader s) = false
          ∧ bodyShort s.rxLen (rxHeader s) = false ∧ t = decoded s
          ∧ ((rxHeader s).long = true → (rxHeader s).length.toNat ≤ s.cfg.pbufSize)
          ∧ ((rxHeader s).long = false → 4 ≤ s.cfg.pbufSize)) := by
  by_cases hn : s.cfg.rbufSize < s.rxLen
  · simp only [decodeWith, hn, if_true, Host.Outcome.next.injEq] at h
    exact .inl ⟨hn, h.symm⟩
  · by_cases h12 : s.rxLen < 12
    · simp only [decodeWith, hn, h12, if_false, if_true, Host.Outcome.next.injEq] at h
      exact .inr (.inl ⟨Nat.not_lt.1 hn, h12, h.symm⟩)
    · simp only [decodeWith, hn, h12, if_false] at h
      obtain ⟨_, h⟩ := touching_next h
      split at h
      · next e he =>
        simp only [Host.Outcome.next.injEq] at h
        exact .inr (.inr (.inl ⟨Nat.not_lt.1 hn, Nat.not_lt.1 h12, e, he, h.symm⟩))
      · next he =>
        obtain ⟨hb, hs⟩ := decodeError_none he
        refine .inr (.inr (.inr ⟨Nat.not_lt.1 hn, Nat.not_lt.1 h12, hb, hs, ?_⟩))
        by_cases hl : (rxHeader s).long = true
        · simp only [hl, if_true, commitLongFrame] at h
          obtain ⟨_, h⟩ := touching_next h
          obtain ⟨hy, h⟩ := touching_next h
          simp only [Host.Outcome.next.injEq] at h
          simp only [spaceSize] at hy
          exact ⟨by simp only [decoded, hl, if_true, decodedLong]; exact h.symm, fun _ => by omega, by simp [hl]⟩
        · simp only [hl, Bool.false_eq_true, if_false, commitShortFrame] at h
          obtain ⟨hy, h⟩ := touching_next h
          simp only [Host.Outcome.next.injEq] at h
          simp only [spaceSize] at hy
          exact ⟨by simp only [decoded, hl, Bool.false_eq_true, if_false, decodedShort]; exact h.symm,
            fun h' => absurd h' hl, fun _ => by omega⟩

/-! ### PACK -/

/-- The state a successful PACK leaves. -/
def packed (s : State) : State :=
  { s.store .tpay s.packPtr (rgbwBytes s.color) with packPtr := s.packPtr + 4, err := .none }

theorem execPack_fits {s : State} (h : s.packPtr + 4 ≤ s.cfg.pbufSize) : execPack s = .next (packed s) := by
  have hp : packInvalid s = false := by simpa [packInvalid] using h
  simp only [execPack, hp, Bool.false_eq_true, if_false]
  rw [touching_ok (by simpa [spaceSize] using h)]
  rfl

theorem execPack_outside {s : State} (h : s.cfg.pbufSize < s.packPtr + 4) :
    execPack s = .next (raise .pack .invalidFrame s) := by
  simp [execPack, packInvalid, h]

/-! ### Received bytes -/

/-- The state received bytes leave. -/
def received (s : State) (bs : List Byte) : State := { s.store .rxbuf 0 bs with rxLen := bs.length }

theorem placeReceived_fits {s : State} {bs : List Byte} (h : bs.length ≤ s.cfg.rbufSize) :
    placeReceived s bs = .next (received s bs) := by
  simp [placeReceived, inSpace, spaceSize, received, h]

theorem placeReceived_outside {s : State} {bs : List Byte} (h : s.cfg.rbufSize < bs.length) :
    placeReceived s bs = .refused (.noSuchByte .rxbuf) := by
  simp [placeReceived, inSpace, spaceSize, Nat.not_le.2 h]

end Sys2Proof.Machine
end

