-- ==== Sys2Proof/Laws/Step.lean ====
section
/-! SUPPORT. What a step can do, and what each host action on the buffers and registers can do. -/

namespace Sys2Proof.Machine

/-- Every way a step answers a next state: the block is idle, or the oldest event fits and is executed, or it is the plain host
action. -/
theorem step_next {s t : State} (h : step s = .next t) :
    (s.events = [] ∧ t = s)
      ∨ ∃ e rest, s.events = e :: rest ∧ eventFits s.cfg e = true
        ∧ ((∃ i, decodeEvent e = .ok i ∧ exec i { s with events := rest } = .next t)
          ∨ ∃ r, decodeEvent e = .error r ∧ plainEvent e { s with events := rest } = .next t) := by
  cases he : s.events with
  | nil =>
    simp only [step, runNext, fetch, he, Host.Outcome.next.injEq] at h
    exact .inl ⟨rfl, h.symm⟩
  | cons e rest =>
    simp only [step, runNext, fetch, he, perform] at h
    split at h
    · next hf =>
      split at h
      · next i hi => exact .inr ⟨e, rest, rfl, hf, .inl ⟨i, hi, h⟩⟩
      · next r hr => exact .inr ⟨e, rest, rfl, hf, .inr ⟨r, hr, h⟩⟩
    · cases h

/-- An operation code that decodes is one of the four operations. -/
theorem decodeOp_ok {b : Byte} {i : Instr} (h : decodeOp b = .ok i) :
    i = .encode ∨ i = .decode ∨ i = .decodeNV ∨ i = .pack := by
  unfold decodeOp at h
  split_ifs at h <;> simp only [Except.ok.injEq] at h <;> simp [← h]

/-- Received bytes answer a next state only when they fit RXBUF. -/
theorem placeReceived_next {s t : State} {bs : List Byte} (h : placeReceived s bs = .next t) :
    bs.length ≤ s.cfg.rbufSize ∧ t = received s bs := by
  by_cases hb : bs.length ≤ s.cfg.rbufSize
  · rw [placeReceived_fits hb, Host.Outcome.next.injEq] at h
    exact ⟨hb, h.symm⟩
  · rw [placeReceived_outside (Nat.lt_of_not_le hb)] at h
    cases h

/-- A byte write answers a next state only inside a space the host may write. -/
theorem hostWrite_next {s t : State} {sp : Space} {i : Nat} {b : Byte} (h : hostWrite s sp i b = .next t) :
    hostWritable sp = true ∧ i < spaceSize s.cfg sp ∧ t = s.store sp i [b] := by
  unfold hostWrite at h
  split_ifs at h with hw hi
  · simp only [Host.Outcome.next.injEq] at h
    exact ⟨hw, by simpa [inSpace, Nat.succ_le_iff] using hi, h.symm⟩

/-- A byte read answers a next state only inside its space, and adds one answer. -/
theorem hostRead_next {s t : State} {sp : Space} {i : Nat} (h : hostRead s sp i = .next t) :
    i < spaceSize s.cfg sp ∧ t = { s with replies := (s.byte sp i).toNat :: s.replies } := by
  unfold hostRead at h
  split_ifs at h with hi
  · simp only [Host.Outcome.next.injEq] at h
    exact ⟨by simpa [inSpace, Nat.succ_le_iff] using hi, h.symm⟩

/-- A register write changes no buffer, no result register, no `STATUS` field and none of the model's own fields. -/
theorem writeNum_frame (s : State) (n v : Nat) :
    (writeNum s n v).cfg = s.cfg ∧ (writeNum s n v).err = s.err ∧ (writeNum s n v).txValid = s.txValid
      ∧ (writeNum s n v).rxValid = s.rxValid ∧ (writeNum s n v).txLen = s.txLen ∧ (writeNum s n v).rxPlen = s.rxPlen
      ∧ (writeNum s n v).rxPoff = s.rxPoff ∧ (writeNum s n v).rxInfo = s.rxInfo ∧ (writeNum s n v).rxFlags = s.rxFlags
      ∧ (∀ sp, (writeNum s n v).mem sp = s.mem sp) ∧ (writeNum s n v).epoch = s.epoch
      ∧ (writeNum s n v).events = s.events ∧ (writeNum s n v).replies = s.replies := by
  unfold writeNum
  split
  · next r _ =>
    cases r <;> exact ⟨rfl, rfl, rfl, rfl, rfl, rfl, rfl, rfl, rfl, fun sp => by cases sp <;> rfl, rfl, rfl, rfl⟩
  · exact ⟨rfl, rfl, rfl, rfl, rfl, rfl, rfl, rfl, rfl, fun _ => rfl, rfl, rfl, rfl⟩

end Sys2Proof.Machine
end

