-- ==== Sys2Proof/Tests/Slice0.lean ====
section
/-! SUPPORT. Tests: the checks of WellFormed refuse, each row of the table decodes from a word written out from the spec, and one
step of each instruction gives what the vectors of 95_test_vectors.md say. -/

namespace Sys2Proof.Tests

open Sys2Proof.Machine

/-! ### WellFormed refuses -/

theorem test_wellFormed_refuses_body_of_65536 :
    (Instr.pktB 1 1 0 false 0 0 (List.replicate 65536 0)).wellFormed = false := by
  rw [Instr.wellFormed, List.length_replicate]
  decide

theorem test_wellFormed_refuses_fade_spelling_of_noop : (Instr.cmdFade 0).wellFormed = false := by decide

theorem test_wellFormed_accepts_other_fade : (Instr.cmdFade 3).wellFormed = true := by decide

/-! ### Each row decodes (opcode_table.json's encodings; 30_encoding.md R65, R75; vectors O1 to O9, E1, E7, W1 to W7) -/

theorem test_decode_ENCODE : decodeEvent (.wr 0x00 0b00000001) = .ok .encode := by decide

theorem test_decode_DECODE : decodeEvent (.wr 0x00 0b00000010) = .ok .decode := by decide

theorem test_decode_DECODE_NV : decodeEvent (.wr 0x00 0b00010010) = .ok .decodeNV := by decide

theorem test_decode_PACK : decodeEvent (.wr 0x00 0b00000011) = .ok .pack := by decide

theorem test_decode_upper_bits_ignored : decodeEvent (.wr 0x00 0x101) = .ok .encode := by decide

theorem test_decode_reserved_op : decodeEvent (.wr 0x00 0b00010001) = .error (.reservedOp 0x11) := by decide

/-- Vector E1's packet. -/
theorem test_decode_PKT_A :
    decodeEvent (.receive
      [0b00000000, 0b01010101, 0b10101010, 0b11111111, 0xFF, 0b00000001, 0b00000000, 0x32, 0x29, 0x86, 0xFF, 0x9C])
      = .ok (.pktA 0xFF 0x01 0 false 0x32 0x29 0x86 0xFF 0x9C) := by decide

/-- Vector E9's packet with two body bytes: length 2, offset 0x1234, flags bit 0 set. -/
theorem test_decode_PKT_B :
    decodeEvent (.receive
      [0b00000000, 0b01010101, 0b10101010, 0b11111111, 0x10, 0x01, 0b10000001, 0x02, 0x00, 0x34, 0x12, 0xB4, 0x11, 0x22])
      = .ok (.pktB 0x10 0x01 0 true 0x1234 0xB4 [0x11, 0x22]) := by decide

theorem test_decode_packet_without_marker :
    decodeEvent (.receive [0x12, 0x34, 0x56, 0x78, 0xFF, 1, 0, 0x32, 0x29, 0x86, 0xFF, 0x9C]) = .error .noMarker := by decide

theorem test_decode_CMD_NOOP : decodeEvent (.wr 0x03 0b00000000) = .ok (.cmdNoop false) := by decide

theorem test_decode_CMD_PATTERN_SIMPLE : decodeEvent (.wr 0x03 0b00010001) = .ok (.cmdPatternSimple true) := by decide

theorem test_decode_CMD_ROTATE : decodeEvent (.wr 0x03 0b00000010) = .ok (.cmdRotate false) := by decide

theorem test_decode_CMD_FADE : decodeEvent (.wr 0x03 0b10110101) = .ok (.cmdFade 0b1010101) := by decide

theorem test_decode_unnamed_command : decodeEvent (.wr 0x03 0b00000011) = .error (.unnamedCommand 3) := by decide

theorem test_decode_FLAGS : decodeEvent (.wr 0x04 0b10000101) = .ok (.flags true 0b000010 true) := by decide

/-! ### Words of the table, and the step they run -/

theorem test_table_word_DECODE_NV : decodeTableWord 8 0x12 = some .decodeNV := by decide

/-- PKT.A numbered as the table numbers it: offset 0 is the most significant byte. -/
theorem test_table_word_PKT_A :
    decodeTableWord 96 0x0055AAFFFF010032298600FF = some (.pktA 0xFF 0x01 0 false 0x32 0x29 0x86 0x00 0xFF) := by decide

/-- PKT.B with length 2: the body the word has no bits for is zeros. -/
theorem test_table_word_PKT_B :
    decodeTableWord 96 0x0055AAFF01018002000A0088 = some (.pktB 1 1 0 false 0x000A 0x88 [0, 0]) := by decide

/-! ### One step of each instruction -/

/-- The state a step leaves, if it leaves one. -/
def after (o : Host.Outcome State Fault Refusal) : Option State :=
  match o with
  | .next t => some t
  | .fault _ => none
  | .refused _ => none

/-- TX registers and payload of an ENCODE vector. -/
def txState (a c f : Nat) (payload : List Byte) (off : Option Nat) : State :=
  { State.reset with
    txAddr := a, txCmd := c, txFlags := f, txPlen := payload.length, txCtrl := off.isSome, txPoff := off.getD 0
    tpay := Memory.number 0 payload }

/-- RX bytes of a DECODE vector. -/
def rxState (bs : List Byte) : State := { State.reset with rxLen := bs.length, rxbuf := Memory.number 0 bs }

/-- Vector E4: the payload is padded on the right. -/
theorem test_encode_E4 :
    (after (exec .encode (txState 7 2 1 [0xDE, 0xAD] none))).map (fun t => (txPacket t, readNum t 0x01, readNum t 0x08))
      = some ([0x00, 0x55, 0xAA, 0xFF, 0x07, 0x02, 0x01, 0xDE, 0xAD, 0x00, 0x00, 0x77], 0x10, 12) := by decide

/-- Vector E9: long mode, little-endian length and offset. -/
theorem test_encode_E9 :
    (after (exec .encode (txState 0x10 1 1 [0x11, 0x22, 0x33, 0x44, 0x55, 0x66, 0x77, 0x88] (some 0x1234)))).map txPacket
      = some [0x00, 0x55, 0xAA, 0xFF, 0x10, 0x01, 0x81, 0x08, 0x00, 0x34, 0x12, 0xBE,
              0x11, 0x22, 0x33, 0x44, 0x55, 0x66, 0x77, 0x88] := by decide

/-- Vector D16: a changed body byte is not detected. -/
theorem test_decode_D16 :
    (after (exec .decode (rxState [0x00, 0x55, 0xAA, 0xFF, 0x10, 0x01, 0x81, 0x08, 0x00, 0x34, 0x12, 0xBE,
        0x11, 0x22, 0x33, 0xBB, 0x55, 0x66, 0x77, 0x88]))).map (fun t => (rxFrame t, readNum t 0x01))
      = some (some ⟨0x10, 0x01, 0x81, [0x11, 0x22, 0x33, 0xBB, 0x55, 0x66, 0x77, 0x88], some 0x1234⟩, 0x20) := by decide

/-- Vector D17: the checksum is tested before the body length. -/
theorem test_decode_D17 :
    (after (exec .decode (rxState [0x00, 0x55, 0xAA, 0xFF, 0x10, 0x01, 0x81, 0x09, 0x00, 0x34, 0x12, 0xBE,
        0x11, 0x22, 0x33, 0x44, 0x55, 0x66, 0x77, 0x88]))).map (fun t => readNum t 0x01) = some 0x03 := by decide

/-- Vector D3 under DECODE.NV: the changed address comes back. -/
theorem test_decodeNV_D3 :
    (after (exec .decodeNV (rxState [0x00, 0x55, 0xAA, 0xFF, 0xFE, 0x01, 0x00, 0x32, 0x29, 0x86, 0xFF, 0x9C]))).map rxFrame
      = some (some ⟨0xFE, 0x01, 0x00, [0x32, 0x29, 0x86, 0xFF], none⟩) := by decide

/-- Vector D9 under DECODE.NV: flags bit 7 makes it a long packet, cut short. -/
theorem test_decodeNV_D9 :
    (after (exec .decodeNV (rxState [0x00, 0x55, 0xAA, 0xFF, 0xFF, 0x01, 0x80, 0x32, 0x29, 0x86, 0xFF, 0x9C]))).map
      (fun t => readNum t 0x01) = some 0x02 := by decide

/-- Vector P4: an unaligned pointer. -/
theorem test_pack_P4 :
    (after (exec .pack { State.reset with color := 0x40302010, packPtr := 1 })).map (fun t => (t.bytes .tpay 1 4, t.packPtr))
      = some ([0x40, 0x30, 0x20, 0x10], 5) := by decide

/-- Vector P7: the pixel does not fit. -/
theorem test_pack_P7 :
    after (exec .pack { State.reset with packPtr := 65532, txValid := true })
      = some { State.reset with packPtr := 65532, txValid := true, err := .invalidFrame } := by decide

theorem test_pktA_is_placed :
    (after (exec (.pktA 5 1 0 false 9 8 7 6 0xAA) State.reset)).map (fun t => (t.bytes .rxbuf 0 12, t.rxLen))
      = some ([0x00, 0x55, 0xAA, 0xFF, 5, 1, 0, 9, 8, 7, 6, 0xAA], 12) := by decide

/-- Vector D25's bytes. -/
theorem test_pktB_is_placed :
    (after (exec (.pktB 5 1 0 false 0x0909 0x86 [0xA1, 0xA2]) State.reset)).map (fun t => (t.bytes .rxbuf 0 14, t.rxLen))
      = some ([0x00, 0x55, 0xAA, 0xFF, 5, 1, 0x80, 2, 0, 9, 9, 0x86, 0xA1, 0xA2], 14) := by decide

theorem test_cmdNoop_fade : (after (exec (.cmdNoop true) State.reset)).map (·.txCmd) = some 0x10 := by decide

theorem test_cmdPatternSimple : (after (exec (.cmdPatternSimple true) State.reset)).map (·.txCmd) = some 0x11 := by decide

theorem test_cmdRotate : (after (exec (.cmdRotate true) State.reset)).map (·.txCmd) = some 0x12 := by decide

theorem test_cmdFade : (after (exec (.cmdFade 0b1010101) State.reset)).map (·.txCmd) = some 0b10110101 := by decide

theorem test_flags : (after (exec (.flags true 0b000010 true) State.reset)).map (·.txFlags) = some 0b10000101 := by decide

/-- 70_reset_and_hazards.md R182: an ENCODE straight after reset, here as the first step. -/
theorem test_step_encode_after_reset :
    (after (step (State.reset.withFetchWord 8 0x01))).map txPacket
      = some [0x00, 0x55, 0xAA, 0xFF, 0, 0, 0, 0, 0, 0, 0, 0] := by decide

/-- Vector O7: a reserved code. -/
theorem test_step_reserved_op :
    after (step { State.reset with rxValid := true, events := [.wr 0x00 0x13] })
      = some { State.reset with rxValid := true, err := .illegalOp } := by decide

/-- A write of `TX_CTRL` keeps bit 0 only (10_state.md R16). -/
theorem test_step_txCtrl_reserved_bits :
    (after (step { State.reset with events := [.wr 0x07 0xFFFFFFFE] })).map (·.txCtrl) = some false := by decide

end Sys2Proof.Tests
end

