-- ==== Sys2Proof/Tests/Witness.lean ====
section
/-! SUPPORT. For each statement of Certificates/Slice0/Obligations.lean that has hypotheses: a concrete state and operands that meet
all of them together, at the ends of their ranges, one theorem for a statement. -/

namespace Sys2Proof.Tests

open Sys2Proof.Machine

/-! ### States -/

/-- Vector E1's packet. -/
def shortBytes : List Byte := [0x00, 0x55, 0xAA, 0xFF, 0xFF, 0x01, 0x00, 0x32, 0x29, 0x86, 0xFF, 0x9C]

/-- A long packet of two body bytes with a right checksum. -/
def longBytes : List Byte := [0x00, 0x55, 0xAA, 0xFF, 0x10, 0x01, 0x81, 0x02, 0x00, 0x34, 0x12, 0xB4, 0x11, 0x22]

/-- The state after reset with host actions to come. -/
def withEvents (es : List Event) : State := { State.reset with events := es }

/-- The smallest parameters 00_scope.md R6 allows, and the largest RXBUF for them. -/
def smallCfg : Config := { regw := 17, pbufSize := 4, rbufSize := 16, checkOrder := .truncFirst }

/-- The packet an ENCODE leaves. -/
def packetOf (s : State) : List Byte := ((after (exec .encode s)).map txPacket).getD []

/-- A valid packet in TXBUF and a valid Frame in the RX registers, with an ENCODE to come. -/
def bothValid : State :=
  { State.reset with
    txValid := true, txLen := 12, txbuf := Memory.number 0 shortBytes
    rxValid := true, rxPlen := 2, rxFlags := 0x81, rxInfo := true, rxPoff := 7, rpay := Memory.number 0 [0x11, 0x22]
    events := [.wr 0x00 0x01] }

theorem bothValid_inv : bothValid.Inv where
  cfg := by decide
  operands := ⟨by decide, by decide, by decide, by decide, by decide, by decide, by decide⟩
  mem := by intro sp; cases sp <;> exact ⟨by decide, by decide⟩
  tx := fun _ => ⟨by decide, by decide, by
    intro i hi
    have h := Memory.read_number 0 shortBytes i hi
    rw [Nat.zero_add] at h
    exact ⟨_, h⟩, by decide, by decide⟩
  rx := fun _ => ⟨by decide, by decide, by
    intro i hi
    have h := Memory.read_number 0 [0x11, 0x22] i hi
    rw [Nat.zero_add] at h
    exact ⟨_, h⟩⟩
  offsetFlag := by decide
  noOffset := by decide

/-! ### Encoding -/

theorem witness_DecodeOfEncodeIsTheInstruction :
    (Instr.pktB 0xFF 0xFF 0x3F true 0xFFFF 0xFF [1, 2]).wellFormed = true ∧ (Instr.cmdFade 3).wellFormed = true
      ∧ (Instr.cmdFade 127).wellFormed = true := by decide

theorem witness_DecodeOfEncodeIsTheInstruction_longest :
    (Instr.pktB 0 0 0 false 0 0 (List.replicate 65535 0)).wellFormed = true := by
  rw [Instr.wellFormed, List.length_replicate]
  decide

theorem witness_EncodeOfDecodeIsTheEvent :
    decodeEvent (.wr 0x00 0x101) = .ok .encode ∧ encode .encode = .wr 0x00 (0x101 % 256)
      ∧ decodeEvent (.receive shortBytes) = .ok (.pktA 0xFF 0x01 0 false 0x32 0x29 0x86 0xFF 0x9C) := by decide

/-! ### The step -/

theorem witness_ResetEventLeavesZeros : (withEvents [.reset, .rd 0x01]).events = .reset :: [.rd 0x01] := rfl

theorem witness_StepRunsTheDecodedInstruction :
    (withEvents [.wr 0x00 0xFFFFFF12]).events = [.wr 0x00 0xFFFFFF12] ∧ eventFits Config.default (.wr 0x00 0xFFFFFF12) = true
      ∧ decodeEvent (.wr 0x00 0xFFFFFF12) = .ok .decodeNV := by decide

theorem witness_StepOfOtherEvents :
    eventFits Config.default (.wr 0x02 0xFFFFFFFF) = true ∧ decodeEvent (.wr 0x02 0xFFFFFFFF) = .error .noRow
      ∧ State.reset.events = [] := by decide

theorem witness_FetchWordIsRunNext :
    State.reset.cfg.ok ∧ smallCfg.ok ∧ decodeTableWord 8 0x12 = some .decodeNV
      ∧ decodeTableWord 96 0x0055AAFFFF010032298600FF = some (.pktA 0xFF 0x01 0 false 0x32 0x29 0x86 0x00 0xFF) := by decide

theorem witness_DataRowsAreHostActions :
    decodeEvent (.wr 0x04 0x81) = .ok (.flags true 0 true) ∧ ∀ v, Event.wr 0x04 0x81 ≠ .wr 0x00 v :=
  ⟨by decide, fun v h => by cases h⟩

theorem witness_StepKeepsInvariant : ∃ t, bothValid.Inv ∧ step bothValid = .next t ∧ t.txValid = true :=
  ⟨_, bothValid_inv, rfl, rfl⟩

theorem witness_StepKeepsParameters : ∃ t, step bothValid = .next t ∧ t.txLen ≠ 0 := ⟨_, rfl, by decide⟩

theorem witness_StepNeverFaults : Config.default.ok ∧ smallCfg.ok := by decide

theorem witness_StatusIsWrittenByOperationsOnly :
    ∃ t, step { bothValid with events := [.wr 0x07 0xFFFFFFFF] } = .next t ∧ t.txCtrl = true := ⟨_, rfl, by decide⟩

/-! ### Host access -/

/-- The largest value of a plain register, the two ends of the unused numbers, a read-only register, and 32 bits of `COLOR` where
REGW is 17. -/
theorem witness_HostRegisterAccess :
    (∀ n ∈ [0x02, 0x03, 0x04, 0x05, 0x06, 0x07, 0x09, 0x0A, 0x10, 0x08, 0x16], valueFits Config.default n 0xFFFFFFFF = true)
      ∧ valueFits Config.default 0x07 0xFFFFFFFE = true
      ∧ valueFits smallCfg 0x09 0xFFFFFFFF = true ∧ valueFits smallCfg 0x0A 0x1FFFF = true
      ∧ valueFits Config.default 0x0B 1 = true ∧ valueFits Config.default 0x17 1 = true
      ∧ valueFits Config.default 0x01 1 = true ∧ (withEvents [.rd 0x16]).events = [.rd 0x16] := by decide

/-- The last index of a space and the first beyond it. -/
theorem witness_HostBufferAccess :
    3 < spaceSize smallCfg .tpay ∧ spaceSize smallCfg .tpay ≤ 4 ∧ 15 < spaceSize smallCfg .rxbuf
      ∧ spaceSize smallCfg .rxbuf ≤ 16 ∧ 15 < spaceSize smallCfg .txbuf ∧ spaceSize smallCfg .txbuf ≤ 16 := by decide

theorem witness_ReceivedBytesAreFillAndLength :
    smallCfg.ok ∧ (Memory.number 3 [0x77]).wf ∧ (shortBytes ++ [1, 2, 3, 4]).length ≤ smallCfg.rbufSize := by decide

theorem witness_LoopbackCarriesThePacket :
    bothValid.cfg.ok ∧ bothValid.rxbuf.wf ∧ bothValid.txLen.toNat ≤ bothValid.cfg.rbufSize
      ∧ bothValid.txLen.toNat ≤ 12 + bothValid.cfg.pbufSize := by decide

/-! ### ENCODE -/

/-- Every limit, and one above each. -/
theorem witness_EncodeRefusesOversizedFields :
    frameInvalid { State.reset with txAddr := 256 } = true ∧ frameInvalid { State.reset with txCmd := 256 } = true
      ∧ frameInvalid { State.reset with txFlags := 256 } = true ∧ frameInvalid { State.reset with txPlen := 65536 } = true
      ∧ frameInvalid { State.reset with txCtrl := true, txPoff := 65536 } = true
      ∧ frameInvalid { State.reset with cfg := smallCfg, txPlen := 5 } = true
      ∧ frameInvalid { State.reset with
          txAddr := 255, txCmd := 255, txFlags := 255, txPlen := 65535, txCtrl := true, txPoff := 65535 } = false
      ∧ frameInvalid { State.reset with txPoff := 65536 } = false := by decide

theorem witness_EncodeShortPacket :
    let s := txState 255 255 255 [1, 2, 3, 4] none
    s.cfg.ok ∧ s.txAddr ≤ 255 ∧ s.txCmd ≤ 255 ∧ s.txFlags ≤ 255 ∧ s.txPlen ≤ 4 ∧ s.txCtrl = false := by decide

theorem witness_EncodeLongPacket :
    let s := { txState 255 255 255 [] (some 65535) with txPlen := 65535 }
    let t := txState 0 0 0 [1, 2, 3, 4, 5] none
    (s.cfg.ok ∧ s.txAddr ≤ 255 ∧ s.txCmd ≤ 255 ∧ s.txFlags ≤ 255 ∧ s.txPlen ≤ s.cfg.pbufSize
        ∧ (s.txCtrl = true → s.txPoff ≤ 65535) ∧ (4 < s.txPlen ∨ s.txCtrl = true))
      ∧ t.txPlen ≤ t.cfg.pbufSize ∧ 4 < t.txPlen ∧ t.txCtrl = false := by decide

theorem witness_EncodeLeavesTheRest :
    ∃ t, exec .encode (txState 1 1 0 [] (some 0)) = .next t ∧ t.err = .none := ⟨_, rfl, rfl⟩

theorem witness_EncodeIsTotalAndDeterministic :
    let s := txState 255 1 0 [1, 2, 3, 4, 5] (some 65535)
    let s' := { s with color := 7, tpay := Memory.number 0 [1, 2, 3, 4, 5, 6] }
    s.cfg.ok ∧ s'.cfg = s.cfg ∧ s.cfg.pbufSize = 65535 ∧ s.txAddr ≤ 255 ∧ s.txCmd ≤ 255 ∧ s.txFlags ≤ 255
      ∧ s.txPlen ≤ 65535 ∧ s.txPoff ≤ 65535 ∧ (∀ i < s.txPlen, s'.byte .tpay i = s.byte .tpay i) ∧ s' ≠ s := by decide

/-- Vector E10, whose payload bytes read as a length, and a payload that reads as length 0. -/
theorem witness_CallerBitSevenReadsAsLong :
    let s := txState 5 1 0x80 [1, 2, 3, 4] none
    let t := txState 5 1 0xFF [0, 0, 3, 4] none
    (s.cfg.ok ∧ s.txAddr ≤ 255 ∧ s.txCmd ≤ 255 ∧ 128 ≤ s.txFlags ∧ s.txFlags ≤ 255 ∧ s.txPlen ≤ 4 ∧ s.txCtrl = false)
      ∧ (packetOf s).drop 7 = [1, 2, 3, 4, 0x80] ∧ t.txFlags ≤ 255 ∧ ((packetOf t).drop 7).take 2 = [0, 0] := by
  decide

/-! ### DECODE and DECODE.NV -/

theorem witness_DecodeNeedsTwelveBytes : State.reset.cfg.ok ∧ (rxState (shortBytes.take 11)).rxLen < 12 := by decide

theorem witness_DecodeRefusesOverlongLength :
    smallCfg.rbufSize < ({ State.reset with cfg := smallCfg, rxLen := 17 }).rxLen
      ∧ ({ State.reset with cfg := smallCfg, rxLen := 16 }).rxLen ≤ smallCfg.rbufSize := by decide

/-- The four combinations of the two tests: a right short packet, a changed short packet, a long packet cut short, and a long
packet cut short and changed (vectors D3, D9, D17). -/
theorem witness_DecodeErrorOrder :
    (csumOk (rxHeader (rxState shortBytes)) = true ∧ bodyShort 12 (rxHeader (rxState shortBytes)) = false)
      ∧ (csumOk (rxHeader (rxState (shortBytes.set 4 0xFE))) = false
        ∧ bodyShort 12 (rxHeader (rxState (shortBytes.set 4 0xFE))) = false)
      ∧ (csumOk (rxHeader (rxState (longBytes.take 13))) = true ∧ bodyShort 13 (rxHeader (rxState (longBytes.take 13))) = true)
      ∧ (csumOk (rxHeader (rxState (longBytes.set 7 3))) = false ∧ bodyShort 14 (rxHeader (rxState (longBytes.set 7 3))) = true)
      ∧ State.reset.cfg.checkOrder = .csumFirst ∧ smallCfg.checkOrder = .truncFirst := by decide

theorem witness_DecodeShortFrame :
    let s := rxState shortBytes
    s.cfg.ok ∧ 12 ≤ s.rxLen ∧ s.rxLen ≤ s.cfg.rbufSize ∧ (s.byte .rxbuf 6).getLsbD 7 = false
      ∧ csumOk (rxHeader s) = true := by decide

theorem witness_DecodeLongFrame :
    let s := rxState longBytes
    s.cfg.ok ∧ s.rxLen ≤ s.cfg.rbufSize ∧ (s.byte .rxbuf 6).getLsbD 7 = true
      ∧ 12 + ((s.byte .rxbuf 7).toNat + 256 * (s.byte .rxbuf 8).toNat) = s.rxLen ∧ csumOk (rxHeader s) = true := by decide

theorem witness_DecodeLeavesTheRest :
    ∃ t, exec .decode (rxState longBytes) = .next t ∧ t.err = .none ∧ t.rxPlen = 2 := ⟨_, rfl, by decide, by decide⟩

theorem witness_DecodeReturnsTheFlags :
    ∃ t, exec .decodeNV (rxState (shortBytes.set 4 0xFE)) = .next t ∧ t.err = .none := ⟨_, rfl, by decide⟩

/-- Another marker and a byte after the packet. -/
theorem witness_DecodeReadsOnlyThePacket :
    let s := rxState longBytes
    let m := Memory.number 0 ((longBytes.set 0 0x77) ++ [0x99])
    (∃ t, exec .decode s = .next t)
      ∧ (∀ k < 12, 4 ≤ k → ({ s with rxbuf := m } : State).byte .rxbuf k = s.byte .rxbuf k)
      ∧ (∀ k < 14, 12 ≤ k → ({ s with rxbuf := m } : State).byte .rxbuf k = s.byte .rxbuf k) ∧ m ≠ s.rxbuf :=
  ⟨⟨_, rfl⟩, by decide, by decide, by decide⟩

theorem witness_DecodeIsTotal :
    smallCfg.ok ∧ ({ State.reset with cfg := smallCfg, rxLen := 16 }).rxLen ≤ smallCfg.rbufSize
      ∧ (Memory.number 0 [1, 2, 3, 4]).within smallCfg.pbufSize := by decide

/-! ### PACK and the checksum -/

/-- The last pointer that fits and the first that does not, at the defaults (vectors P6, P7). -/
theorem witness_PackStoresThePixel :
    65531 + 4 ≤ Config.default.pbufSize ∧ Config.default.pbufSize < 65532 + 4
      ∧ (0x322986FF : BitVec 32).toNat
        = 2 ^ 24 * (0x32 : Byte).toNat + 2 ^ 16 * (0x29 : Byte).toNat + 2 ^ 8 * (0x86 : Byte).toNat + (0xFF : Byte).toNat := by
  decide

theorem witness_PackRangeAtDefaults : State.reset.cfg.pbufSize = 65535 := rfl

theorem witness_ChecksumIsPlainXor : [3, 1, 2, 4, 5, 6, 7].Perm [(1 : Byte), 2, 3, 4, 5, 6, 7] := by decide

theorem witness_OneChangedByteIsDetected :
    let s := rxState shortBytes
    s.cfg.ok ∧ s.cfg.checkOrder = .csumFirst ∧ 12 ≤ s.rxLen ∧ s.rxLen ≤ s.cfg.rbufSize ∧ csumOk (rxHeader s) = true
      ∧ (0x32 : Byte) ≠ s.byte .rxbuf 4 ∧ (0x9D : Byte) ≠ s.byte .rxbuf 11 := by decide

theorem witness_ChecksumMissesEvenFlips : csumOk (rxHeader (rxState longBytes)) = true := by decide

/-! ### Round trips -/

theorem witness_ShortRoundTrip :
    let s := txState 255 255 127 [1, 2, 3, 4] none
    s.cfg.ok ∧ s.txAddr ≤ 255 ∧ s.txCmd ≤ 255 ∧ s.txFlags < 128 ∧ s.txPlen ≤ 4 ∧ s.txCtrl = false := by decide

theorem witness_LongRoundTrip :
    let s := { txState 255 255 255 [] (some 65535) with txPlen := 65535 }
    s.cfg.ok ∧ s.txAddr ≤ 255 ∧ s.txCmd ≤ 255 ∧ s.txFlags ≤ 255 ∧ s.txPlen ≤ s.cfg.pbufSize
      ∧ 12 + s.txPlen ≤ s.cfg.rbufSize ∧ (s.txCtrl = true → s.txPoff ≤ 65535) ∧ (4 < s.txPlen ∨ s.txCtrl = true) := by decide

theorem witness_ReencodingGivesThePacketBack :
    ∃ t, exec .decode (rxState (longBytes ++ [0x99])) = .next t ∧ t.err = .none ∧ t.rxInfo = true :=
  ⟨_, rfl, by decide, by decide⟩

theorem witness_EncodeMeetsTheFunction :
    (txFrame (txState 7 2 1 [0xDE, 0xAD] none)).toPacket 65535
        = .ok [0x00, 0x55, 0xAA, 0xFF, 0x07, 0x02, 0x01, 0xDE, 0xAD, 0x00, 0x00, 0x77]
      ∧ (txFrame (txState 256 2 1 [] none)).toPacket 65535 = .error .invalidFrame := by decide

theorem witness_DecodeMeetsTheFunction :
    frameOfPacket .csumFirst true (rxPacket (rxState longBytes)) = .ok ⟨0x10, 0x01, 0x81, [0x11, 0x22], some 0x1234⟩
      ∧ frameOfPacket .csumFirst false (rxPacket (rxState (longBytes.take 13))) = .error .truncatedFrame := by decide

/-! ### Errors -/

/-- One failure of each row of 60_exceptions.md R165. -/
theorem witness_FailureChangesOnlyStatus :
    (after (exec .encode { State.reset with txAddr := 256 })).map (·.err) = some .invalidFrame
      ∧ (after (exec .pack { State.reset with packPtr := 65532 })).map (·.err) = some .invalidFrame
      ∧ (after (exec .decode State.reset)).map (·.err) = some .truncatedFrame
      ∧ (after (exec .decode (rxState (shortBytes.set 11 0)))).map (·.err) = some .checksumMismatch
      ∧ (after (exec .decodeNV { State.reset with rxLen := 65548 })).map (·.err) = some .illegalOp
      ∧ valueFits Config.default 0x00 0x113 = true ∧ 0x113 % 256 ∉ [0x01, 0x02, 0x12, 0x03] := by decide

theorem witness_ReservedCodeIsIllegalOp :
    valueFits Config.default 0x00 0xFFFFFF00 = true ∧ 0xFFFFFF00 % 256 = 0x00 ∧ valueFits Config.default 0x00 0x13 = true := by
  decide

theorem witness_ErrorsOfEachOperation :
    (∃ t, exec .encode State.reset = .next t) ∧ (∃ t, exec .pack State.reset = .next t) ∧ (∃ t, exec .decode State.reset = .next t)
      ∧ ∃ t, exec .decodeNV State.reset = .next t := ⟨⟨_, rfl⟩, ⟨_, rfl⟩, ⟨_, rfl⟩, ⟨_, rfl⟩⟩

/-- Both orders, and states that agree on one side only. -/
theorem witness_EncoderAndDecoderAreIndependent :
    (∃ t u, exec .encode (rxState shortBytes) = .next t ∧ exec .decode (rxState shortBytes) = .next u ∧ u.rxValid = true)
      ∧ (∃ t u, exec .decodeNV (rxState longBytes) = .next t ∧ exec .pack (rxState longBytes) = .next u ∧ u.packPtr = 4)
      ∧ SameTx State.reset (rxState longBytes) ∧ SameRx State.reset (txState 1 2 3 [4] none)
      ∧ State.reset ≠ rxState longBytes ∧ State.reset ≠ txState 1 2 3 [4] none :=
  ⟨⟨_, _, rfl, rfl, by decide⟩, ⟨_, _, rfl, rfl, by decide⟩, ⟨rfl, rfl, rfl, rfl, rfl, rfl, rfl, rfl, rfl, rfl, rfl⟩,
    ⟨rfl, rfl, rfl, rfl, rfl, rfl, rfl, rfl, rfl⟩, by decide, by decide⟩

/-! ### The table's data rows -/

theorem witness_LongPacketIsPlaced :
    [(1 : Byte), 2, 3, 4].length ≤ 65535 ∧ 12 + [(1 : Byte), 2, 3, 4].length ≤ smallCfg.rbufSize
      ∧ smallCfg.rbufSize < 12 + [(1 : Byte), 2, 3, 4, 5].length := by decide

theorem witness_ShortPacketIsPlaced : smallCfg.ok := by decide

theorem witness_ArrivedShortPacketDecodes :
    State.reset.cfg.ok ∧ (0x9C : Byte) = 0xFF ^^^ 0x01 ^^^ (BitVec.ofBool false ++ (0 : BitVec 6) ++ BitVec.ofBool false)
      ^^^ 0x32 ^^^ 0x29 ^^^ 0x86 ^^^ 0xFF := by decide

theorem witness_ArrivedLongPacketDecodes :
    State.reset.cfg.ok ∧ 12 + [(0x11 : Byte), 0x22].length ≤ State.reset.cfg.rbufSize
      ∧ (0xB4 : Byte) = 0x10 ^^^ 0x01 ^^^ (BitVec.ofBool true ++ (0 : BitVec 6) ++ BitVec.ofBool true)
        ^^^ BitVec.ofNat 8 2 ^^^ BitVec.ofNat 8 (2 / 256) ^^^ BitVec.ofNat 8 0x1234 ^^^ BitVec.ofNat 8 (0x1234 / 256) := by decide

end Sys2Proof.Tests
end

section
/-! The state after reset (10_state.md R30): what a read of a register answers and what the buffers hold, for any parameters,
reset count, later events and earlier answers. -/

namespace Sys2Proof.Machine

@[simp] theorem regRead_afterReset (cfg : Config) (n : Nat) (es : List Event) (rs : List Nat) (r : Reg) :
    regRead (State.afterReset cfg n es rs) r = 0 := by
  cases r <;> rfl

/-- A number is a register's, which reads 0 after reset, or unused, which always reads 0 (10_state.md R14). -/
@[simp] theorem readNum_afterReset (cfg : Config) (n : Nat) (es : List Event) (rs : List Nat) (num : Nat) :
    readNum (State.afterReset cfg n es rs) num = 0 := by
  cases h : Reg.ofNum num with
  | some r => simp only [readNum, h, regRead_afterReset]
  | none => simp only [readNum, h]

@[simp] theorem mem_afterReset (cfg : Config) (n : Nat) (es : List Event) (rs : List Nat) (sp : Space) :
    (State.afterReset cfg n es rs).mem sp = [] := by
  cases sp <;> rfl

/-- An index with no cell was not written, and after reset no buffer has a cell (20_memory.md R46). -/
theorem not_written_afterReset (cfg : Config) (n : Nat) (es : List Event) (rs : List Nat) (sp : Space) (i : Nat) :
    ¬ (State.afterReset cfg n es rs).written sp i := by
  rintro ⟨b, hb⟩
  simp [Memory.read] at hb

/-- Settles O6: reset is `State.afterReset` with the default parameters, where every register reads 0 and no buffer has a cell. -/
theorem resetLeavesZeros : Obligations.ResetLeavesZeros := by
  unfold Obligations.ResetLeavesZeros
  exact ⟨readNum_afterReset _ _ _ _, not_written_afterReset _ _ _ _⟩

end Sys2Proof.Machine
end

section
/-! The encoder and the decoder share nothing but `STATUS.ERR` (20_memory.md R52). `State.txOnto` and `State.rxOnto` put one side
of a state onto another state; an operation of a side gives the same there as on the state the side is from. -/

namespace Sys2Proof.Machine

/-! ### What a decode answers, for any parameters: the converse of `decodeWith_next` -/

theorem decodeWith_tooLong {op : Operation} {verify : Bool} {s : State} (h : s.cfg.rbufSize < s.rxLen) :
    decodeWith op verify s = .next (raise op .illegalOp s) := by
  simp [decodeWith, h]

theorem decodeWith_noHeader {op : Operation} {verify : Bool} {s : State} (hn : s.rxLen ≤ s.cfg.rbufSize) (h : s.rxLen < 12) :
    decodeWith op verify s = .next (raise op .truncatedFrame s) := by
  simp [decodeWith, Nat.not_lt.2 hn, h]

theorem decodeWith_error {op : Operation} {verify : Bool} {s : State} {e : Err} (hn : s.rxLen ≤ s.cfg.rbufSize)
    (h12 : 12 ≤ s.rxLen)
    (he : decodeError s.cfg.checkOrder (sumBad verify (rxHeader s)) (bodyShort s.rxLen (rxHeader s)) = some e) :
    decodeWith op verify s = .next (raise op e s) := by
  have hr : 4 + 8 ≤ spaceSize s.cfg .rxbuf := by simp only [spaceSize]; omega
  simp [decodeWith, Nat.not_lt.2 hn, Nat.not_lt.2 h12, touching_ok hr, he]

/-- The Frame is decoded when both tests pass and its payload fits RPAY. -/
theorem decodeWith_frame {op : Operation} {verify : Bool} {s : State} (hn : s.rxLen ≤ s.cfg.rbufSize) (h12 : 12 ≤ s.rxLen)
    (hb : sumBad verify (rxHeader s) = false) (hs : bodyShort s.rxLen (rxHeader s) = false)
    (hlong : (rxHeader s).long = true → (rxHeader s).length.toNat ≤ s.cfg.pbufSize)
    (hshort : (rxHeader s).long = false → 4 ≤ s.cfg.pbufSize) :
    decodeWith op verify s = .next (decoded s) := by
  have hr : 4 + 8 ≤ spaceSize s.cfg .rxbuf := by simp only [spaceSize]; omega
  have he : decodeError s.cfg.checkOrder false false = none := by cases s.cfg.checkOrder <;> rfl
  simp only [decodeWith, Nat.not_lt.2 hn, Nat.not_lt.2 h12, if_false, touching_ok hr, hb, hs, he]
  cases hl : (rxHeader s).long with
  | true =>
    have hbody : 12 + (rxHeader s).length.toNat ≤ s.rxLen := by simpa [bodyShort, hl] using hs
    have hx : 12 + (rxHeader s).length.toNat ≤ spaceSize s.cfg .rxbuf := hbody.trans hn
    have hy : 0 + (rxHeader s).length.toNat ≤ spaceSize s.cfg .rpay := by simpa [spaceSize] using hlong hl
    simp [commitLongFrame, touching_ok hx, touching_ok hy, decoded, decodedLong, hl]
  | false =>
    have hy : 0 + 4 ≤ spaceSize s.cfg .rpay := by simpa [spaceSize] using hshort hl
    simp [commitShortFrame, touching_ok hy, decoded, decodedShort, hl]

/-! ### One side of a state on another state -/

/-- `r` with the TX side of `s` (and its parameters and free values); `STATUS` and the RX side are those of `r`. -/
def State.txOnto (s r : State) : State :=
  { r with
    cfg := s.cfg, epoch := s.epoch
    txAddr := s.txAddr, txCmd := s.txCmd, txFlags := s.txFlags, txPlen := s.txPlen, txPoff := s.txPoff, txCtrl := s.txCtrl
    txLen := s.txLen, color := s.color, packPtr := s.packPtr, tpay := s.tpay, txbuf := s.txbuf }

/-- `r` with the RX side of `s` (and its parameters and free values); `STATUS` and the TX side are those of `r`. -/
def State.rxOnto (s r : State) : State :=
  { r with
    cfg := s.cfg, epoch := s.epoch
    rxLen := s.rxLen, rxAddr := s.rxAddr, rxCmd := s.rxCmd, rxFlags := s.rxFlags, rxPlen := s.rxPlen, rxPoff := s.rxPoff
    rxInfo := s.rxInfo, rxbuf := s.rxbuf, rpay := s.rpay }

/-- Cited at `encoded s`, `packed s` or `raise op e s` below: the operation run on `s.txOnto r` leaves the TX side it leaves on `s`,
field by field. -/
theorem sameTx_txOnto (s r : State) : SameTx s (s.txOnto r) := ⟨rfl, rfl, rfl, rfl, rfl, rfl, rfl, rfl, rfl, rfl, rfl⟩

theorem sameRx_rxOnto (s r : State) : SameRx s (s.rxOnto r) := ⟨rfl, rfl, rfl, rfl, rfl, rfl, rfl, rfl, rfl⟩

theorem SameTx.txOnto_eq {s r : State} (hc : r.cfg = s.cfg) (he : r.epoch = s.epoch) (h : SameTx s r) : s.txOnto r = r := by
  obtain ⟨h₁, h₂, h₃, h₄, h₅, h₆, h₇, h₈, h₉, h₁₀, h₁₁⟩ := h
  simp only [State.txOnto, ← hc, ← he, ← h₁, ← h₂, ← h₃, ← h₄, ← h₅, ← h₆, ← h₇, ← h₈, ← h₉, ← h₁₀, ← h₁₁]

theorem SameRx.rxOnto_eq {s r : State} (hc : r.cfg = s.cfg) (he : r.epoch = s.epoch) (h : SameRx s r) : s.rxOnto r = r := by
  obtain ⟨h₁, h₂, h₃, h₄, h₅, h₆, h₇, h₈, h₉⟩ := h
  simp only [State.rxOnto, ← hc, ← he, ← h₁, ← h₂, ← h₃, ← h₄, ← h₅, ← h₆, ← h₇, ← h₈, ← h₉]

/-! ### Operations of one side -/

/-- `f` is an operation of the encoder: it leaves the RX side, and what it leaves on the TX side and in `ERR` depends on the TX
side only; what it leaves in `TX_VALID` may depend on what stood there. -/
structure OnTxSide (f : State → Host.Outcome State Fault Refusal) : Prop where
  frame : ∀ {s t}, f s = .next t → t.cfg = s.cfg ∧ t.epoch = s.epoch ∧ SameRx s t ∧ t.rxValid = s.rxValid
  reads : ∀ {s t}, f s = .next t → ∀ r, ∃ t', f (s.txOnto r) = .next t' ∧ SameTx t t' ∧ t'.err = t.err
    ∧ (r.txValid = s.txValid → t'.txValid = t.txValid)

/-- `f` is an operation of the decoder; see `OnTxSide`. -/
structure OnRxSide (f : State → Host.Outcome State Fault Refusal) : Prop where
  frame : ∀ {s t}, f s = .next t → t.cfg = s.cfg ∧ t.epoch = s.epoch ∧ SameTx s t ∧ t.txValid = s.txValid
  reads : ∀ {s t}, f s = .next t → ∀ r, ∃ t', f (s.rxOnto r) = .next t' ∧ SameRx t t' ∧ t'.err = t.err
    ∧ (r.rxValid = s.rxValid → t'.rxValid = t.rxValid)

/-- A state that agrees with `s` on the TX side is `s.txOnto` of itself, so an encoder operation leaves the same there. -/
theorem OnTxSide.depends {f : State → Host.Outcome State Fault Refusal} (hf : OnTxSide f) {s t r : State} (h : f s = .next t)
    (hc : r.cfg = s.cfg) (he : r.epoch = s.epoch) (hr : SameTx s r) :
    ∃ t', f r = .next t' ∧ SameTx t t' ∧ t'.err = t.err ∧ (r.txValid = s.txValid → t'.txValid = t.txValid) := by
  simpa only [hr.txOnto_eq hc he] using hf.reads h r

theorem OnRxSide.depends {f : State → Host.Outcome State Fault Refusal} (hf : OnRxSide f) {s t r : State} (h : f s = .next t)
    (hc : r.cfg = s.cfg) (he : r.epoch = s.epoch) (hr : SameRx s r) :
    ∃ t', f r = .next t' ∧ SameRx t t' ∧ t'.err = t.err ∧ (r.rxValid = s.rxValid → t'.rxValid = t.rxValid) := by
  simpa only [hr.rxOnto_eq hc he] using hf.reads h r

/-- An encoder operation in between changes nothing in what a decoder operation returns. -/
theorem OnRxSide.after_txSide {f g : State → Host.Outcome State Fault Refusal} (hg : OnRxSide g) (hf : OnTxSide f)
    {s t u : State} (ht : f s = .next t) (hu : g s = .next u) :
    ∃ v, g t = .next v ∧ SameRx u v ∧ v.rxValid = u.rxValid ∧ v.err = u.err := by
  obtain ⟨hc, he, hside, hvalid⟩ := hf.frame ht
  obtain ⟨v, hv, hrx, herr, hrxValid⟩ := hg.depends hu hc he hside
  exact ⟨v, hv, hrx, hrxValid hvalid, herr⟩

/-- A decoder operation in between changes nothing in what an encoder operation returns. -/
theorem OnTxSide.after_rxSide {f g : State → Host.Outcome State Fault Refusal} (hf : OnTxSide f) (hg : OnRxSide g)
    {s t u : State} (ht : g s = .next t) (hu : f s = .next u) :
    ∃ v, f t = .next v ∧ SameTx u v ∧ v.txValid = u.txValid ∧ v.err = u.err := by
  obtain ⟨hc, he, hside, hvalid⟩ := hg.frame ht
  obtain ⟨v, hv, htx, herr, htxValid⟩ := hf.depends hu hc he hside
  exact ⟨v, hv, htx, htxValid hvalid, herr⟩

/-! ### ENCODE and PACK -/

/-- A failed operation leaves every register and buffer of a side as it was (60_exceptions.md R165). -/
theorem sameTx_raise (op : Operation) (e : Err) (s : State) : SameTx s (raise op e s) := by simp [SameTx]

theorem sameRx_raise (op : Operation) (e : Err) (s : State) : SameRx s (raise op e s) := by simp [SameRx]

/-- A failed ENCODE or PACK: what it leaves in `TX_VALID` is what stood there or 0. -/
theorem raise_txOnto_agrees (op : Operation) (e : Err) (s r : State) :
    SameTx (raise op e s) (raise op e (s.txOnto r)) ∧ (raise op e (s.txOnto r)).err = (raise op e s).err
      ∧ (r.txValid = s.txValid → (raise op e (s.txOnto r)).txValid = (raise op e s).txValid) :=
  ⟨sameTx_txOnto (raise op e s) r, rfl, fun h => by simp [State.txOnto, h]⟩

theorem onTxSide_encode : OnTxSide execEncode where
  frame {s t} h := by
    rcases execEncode_cases s with ⟨_, hs⟩ | ⟨_, hs⟩ <;> cases hs.symm.trans h
    · exact ⟨rfl, rfl, sameRx_raise .encode .invalidFrame s, by simp [clearsRxValid]⟩
    · simp [encoded, SameRx]
  reads {s t} h r := by
    rcases execEncode_cases s with ⟨hi, hs⟩ | ⟨hi, hs⟩ <;> cases hs.symm.trans h
    · exact ⟨_, execEncode_invalid (s := s.txOnto r) hi, raise_txOnto_agrees .encode .invalidFrame s r⟩
    · exact ⟨_, execEncode_valid (s := s.txOnto r) hi, sameTx_txOnto (encoded s) r, rfl, fun _ => rfl⟩

theorem onTxSide_pack : OnTxSide execPack where
  frame {s t} h := by
    rcases Nat.lt_or_ge s.cfg.pbufSize (s.packPtr + 4) with hp | hp
    · cases (execPack_outside hp).symm.trans h
      exact ⟨rfl, rfl, sameRx_raise .pack .invalidFrame s, by simp [clearsRxValid]⟩
    · cases (execPack_fits hp).symm.trans h
      simp [packed, SameRx]
  reads {s t} h r := by
    rcases Nat.lt_or_ge s.cfg.pbufSize (s.packPtr + 4) with hp | hp
    · cases (execPack_outside hp).symm.trans h
      exact ⟨_, execPack_outside (s := s.txOnto r) hp, raise_txOnto_agrees .pack .invalidFrame s r⟩
    · cases (execPack_fits hp).symm.trans h
      exact ⟨_, execPack_fits (s := s.txOnto r) hp, sameTx_txOnto (packed s) r, rfl, id⟩

/-! ### DECODE and DECODE.NV -/

/-- A failed decode: what it leaves in `RX_VALID` is what stood there or 0. -/
theorem raise_rxOnto_agrees (op : Operation) (e : Err) (s r : State) :
    SameRx (raise op e s) (raise op e (s.rxOnto r)) ∧ (raise op e (s.rxOnto r)).err = (raise op e s).err
      ∧ (r.rxValid = s.rxValid → (raise op e (s.rxOnto r)).rxValid = (raise op e s).rxValid) :=
  ⟨sameRx_rxOnto (raise op e s) r, rfl, fun h => by simp [State.rxOnto, h]⟩

theorem decoded_frame (s : State) :
    (decoded s).cfg = s.cfg ∧ (decoded s).epoch = s.epoch ∧ SameTx s (decoded s) ∧ (decoded s).txValid = s.txValid := by
  cases hl : (rxHeader s).long
  · simp [decoded, hl, decodedShort, SameTx]
  · simp [decoded, hl, decodedLong, SameTx]

/-- A successful decode sets `RX_VALID` whatever stood there. -/
theorem decoded_rxOnto_agrees (s r : State) :
    SameRx (decoded s) (decoded (s.rxOnto r)) ∧ (decoded (s.rxOnto r)).err = (decoded s).err
      ∧ (decoded (s.rxOnto r)).rxValid = (decoded s).rxValid := by
  have hheader : rxHeader (s.rxOnto r) = rxHeader s := rfl
  cases hl : (rxHeader s).long
  · simp only [decoded, hheader, hl, Bool.false_eq_true, if_false]
    exact ⟨sameRx_rxOnto (decodedShort s) r, rfl, rfl⟩
  · simp only [decoded, hheader, hl, if_true]
    exact ⟨sameRx_rxOnto (decodedLong s) r, rfl, rfl⟩

/-- A decode is on the RX side, with or without the checksum test, as long as its failures keep `TX_VALID`. -/
theorem onRxSide_decodeWith {op : Operation} (verify : Bool) (hop : ∀ e, clearsTxValid op e = false) :
    OnRxSide (decodeWith op verify) where
  frame {s t} h := by
    have hraise (e : Err) : (raise op e s).cfg = s.cfg ∧ (raise op e s).epoch = s.epoch ∧ SameTx s (raise op e s)
        ∧ (raise op e s).txValid = s.txValid := ⟨rfl, rfl, sameTx_raise op e s, by simp [hop]⟩
    rcases decodeWith_next h with ⟨_, rfl⟩ | ⟨_, _, rfl⟩ | ⟨_, _, e, _, rfl⟩ | ⟨_, _, _, _, rfl, _⟩
    · exact hraise _
    · exact hraise _
    · exact hraise e
    · exact decoded_frame s
  reads {s t} h r := by
    rcases decodeWith_next h with ⟨hn, rfl⟩ | ⟨hn, h12, rfl⟩ | ⟨hn, h12, e, he, rfl⟩ | ⟨hn, h12, hb, hs, rfl, hlong, hshort⟩
    · exact ⟨_, decodeWith_tooLong (s := s.rxOnto r) hn, raise_rxOnto_agrees op .illegalOp s r⟩
    · exact ⟨_, decodeWith_noHeader (s := s.rxOnto r) hn h12, raise_rxOnto_agrees op .truncatedFrame s r⟩
    · exact ⟨_, decodeWith_error (s := s.rxOnto r) hn h12 he, raise_rxOnto_agrees op e s r⟩
    · obtain ⟨hrx, herr, hvalid⟩ := decoded_rxOnto_agrees s r
      exact ⟨_, decodeWith_frame (s := s.rxOnto r) hn h12 hb hs hlong hshort, hrx, herr, fun _ => hvalid⟩

/-! ### The instructions -/

theorem onTxSide_exec {i : Instr} (h : i = .encode ∨ i = .pack) : OnTxSide (exec i) := by
  rcases h with rfl | rfl
  · exact onTxSide_encode
  · exact onTxSide_pack

theorem onRxSide_exec {i : Instr} (h : i = .decode ∨ i = .decodeNV) : OnRxSide (exec i) := by
  rcases h with rfl | rfl
  · exact onRxSide_decodeWith true fun _ => rfl
  · exact onRxSide_decodeWith false fun _ => rfl

/-- Settles O51: ENCODE and PACK are on the TX side and both decodes on the RX side, so each leaves what the other reads. -/
theorem encoderAndDecoderAreIndependent : Obligations.EncoderAndDecoderAreIndependent := by
  unfold Obligations.EncoderAndDecoderAreIndependent
  constructor
  · intro s t i hi ht
    obtain ⟨_, _, hframe⟩ := (onTxSide_exec hi).frame ht
    exact ⟨hframe, fun s' => (onTxSide_exec hi).depends ht,
      fun u j hj hu => (onRxSide_exec hj).after_txSide (onTxSide_exec hi) ht hu⟩
  · intro s t i hi ht
    obtain ⟨_, _, hframe⟩ := (onRxSide_exec hi).frame ht
    exact ⟨hframe, fun s' => (onRxSide_exec hi).depends ht,
      fun u j hj hu => (onTxSide_exec hj).after_rxSide (onRxSide_exec hi) ht hu⟩

end Sys2Proof.Machine
end

section
/-! Operation codes (30_encoding.md R75 to R77): the fields of a code, and what a write of a reserved code does. -/

namespace Sys2Proof.Machine

/-! ### The four codes and their fields -/

/-- The decoder of operation codes is the table of 30_encoding.md R75. -/
theorem decodeOp_eq_ok_iff (b : Byte) (i : Instr) :
    decodeOp b = .ok i ↔
      b = 0x01 ∧ i = .encode ∨ b = 0x02 ∧ i = .decode ∨ b = 0x12 ∧ i = .decodeNV ∨ b = 0x03 ∧ i = .pack := by
  constructor
  · intro h
    unfold decodeOp at h
    split_ifs at h <;> cases h <;> simp [*]
  · rintro (⟨rfl, rfl⟩ | ⟨rfl, rfl⟩ | ⟨rfl, rfl⟩ | ⟨rfl, rfl⟩) <;> rfl

/-- Every byte but the four codes is reserved (30_encoding.md R77). -/
theorem decodeOp_reserved {b : Byte} (h1 : b ≠ 0x01) (h2 : b ≠ 0x02) (h3 : b ≠ 0x03) (h12 : b ≠ 0x12) :
    decodeOp b = .error (.reservedOp b) := by
  simp only [decodeOp, h1, h2, h3, h12, if_false]

/-- Bits 7:5, bit 4 and bits 3:0 make up the whole byte. -/
theorem byte_eq_iff_fields (b c : Byte) :
    b = c ↔ b.extractLsb' 5 3 = c.extractLsb' 5 3 ∧ b.getLsbD 4 = c.getLsbD 4 ∧ b.extractLsb' 0 4 = c.extractLsb' 0 4 := by
  constructor
  · rintro rfl
    exact ⟨rfl, rfl, rfl⟩
  · rintro ⟨hhigh, hnv, hfn⟩
    refine BitVec.eq_of_getLsbD_eq fun i hi => ?_
    rcases Nat.lt_trichotomy i 4 with hlow | rfl | hup
    · simpa [hlow] using congrArg (·.getLsbD i) hfn
    · exact hnv
    · have hfield : i - 5 < 3 := by omega
      simpa [hfield, Nat.add_sub_cancel' hup] using congrArg (·.getLsbD (i - 5)) hhigh

/-- Settles O4: each operation has one code, and a byte is that code when its three fields are the code's. -/
theorem operationCodeFields : Obligations.OperationCodeFields := by
  unfold Obligations.OperationCodeFields
  refine ⟨fun b => ?_, fun _ => rfl⟩
  have h1 : b = 0x01 ↔ b.extractLsb' 5 3 = 0 ∧ b.getLsbD 4 = false ∧ b.extractLsb' 0 4 = 1 := byte_eq_iff_fields b 0x01
  have h2 : b = 0x02 ↔ b.extractLsb' 5 3 = 0 ∧ b.getLsbD 4 = false ∧ b.extractLsb' 0 4 = 2 := byte_eq_iff_fields b 0x02
  have h12 : b = 0x12 ↔ b.extractLsb' 5 3 = 0 ∧ b.getLsbD 4 = true ∧ b.extractLsb' 0 4 = 2 := byte_eq_iff_fields b 0x12
  have h3 : b = 0x03 ↔ b.extractLsb' 5 3 = 0 ∧ b.getLsbD 4 = false ∧ b.extractLsb' 0 4 = 3 := byte_eq_iff_fields b 0x03
  have hcode : (∃ i, decodeOp b = .ok i) ↔ b = 0x01 ∨ b = 0x02 ∨ b = 0x12 ∨ b = 0x03 := by
    simp only [decodeOp_eq_ok_iff, exists_or, exists_and_left, exists_eq, and_true]
  refine ⟨by simpa [decodeOp_eq_ok_iff] using h1, by simpa [decodeOp_eq_ok_iff] using h2,
    by simpa [decodeOp_eq_ok_iff] using h12, by simpa [decodeOp_eq_ok_iff] using h3, ?_⟩
  · rw [hcode, h1, h2, h12, h3]
    cases b.getLsbD 4
    · simp [← and_or_left]
    · simp +contextual

/-! ### A write of a reserved code -/

theorem loByte_eq_iff (v : Nat) (b : Byte) : loByte v = b ↔ v % 256 = b.toNat := by
  simp [loByte, ← BitVec.toNat_inj]

/-- A step takes the oldest event (20_memory.md R51). -/
theorem step_cons {s : State} {e : Event} {rest : List Event} (h : s.events = e :: rest) :
    step s = perform e { s with events := rest } := by
  simp only [step, runNext, fetch, h]

theorem perform_plain {e : Event} {s : State} {r : Reject} (hf : eventFits s.cfg e = true) (hd : decodeEvent e = .error r) :
    perform e s = plainEvent e s := by
  simp only [perform, hf, hd, if_true]

/-- A reserved code clears neither VALID bit (60_exceptions.md R165). -/
theorem raise_reserved (e : Err) (s : State) : raise .reserved e s = { s with err := e } := by
  simp [raise, clearsTxValid, clearsRxValid]

/-- The step of a write of `OP` that is no operation (30_encoding.md R77). -/
theorem step_reservedOp {s : State} {v : Nat} {rest : List Event} {r : Reject} (he : s.events = .wr 0x00 v :: rest)
    (hf : valueFits s.cfg 0x00 v = true) (hd : decodeOp (loByte v) = .error r) :
    step s = .next { s with events := rest, err := .illegalOp } := by
  calc step s = perform (.wr 0x00 v) { s with events := rest } := step_cons he
    _ = .next (raise .reserved .illegalOp { s with events := rest }) := perform_plain hf hd
    _ = .next { s with events := rest, err := .illegalOp } := congrArg _ (raise_reserved _ _)

/-- `STATUS` has `ERR` in bits 2:0 (10_state.md R17). -/
theorem readNum_status_mod_eight (s : State) : readNum s 0x01 % 8 = s.err.code := by
  have hcode : s.err.code < 8 := by cases s.err <;> decide
  change (s.err.code + 16 * s.txValid.toNat + 32 * s.rxValid.toNat) % 8 = s.err.code
  omega

/-- Settles O49: a low byte that is none of the four codes does not decode, and the write's step only raises IllegalOp. -/
theorem reservedCodeIsIllegalOp : Obligations.ReservedCodeIsIllegalOp := by
  unfold Obligations.ReservedCodeIsIllegalOp
  intro s v rest he hf h1 h2 h3 h12
  have hne (b : Byte) (h : v % 256 ≠ b.toNat) : loByte v ≠ b := mt (loByte_eq_iff v b).1 h
  have hd : decodeOp (loByte v) = .error (.reservedOp (loByte v)) :=
    decodeOp_reserved (hne 0x01 h1) (hne 0x02 h2) (hne 0x03 h3) (hne 0x12 h12)
  exact ⟨_, step_reservedOp he hf hd, rfl, readNum_status_mod_eight _⟩

end Sys2Proof.Machine
end

section
/-! The checksum generator (40_checksum.md R90): `xor7` bit by bit, and as a fold over its inputs in any order. -/

namespace Sys2Proof.Machine

/-- No carry: bit `i` of the checksum is the parity of bit `i` of the inputs (40_checksum.md R90). -/
theorem getLsbD_xor7 (b4 b5 b6 b7 b8 b9 b10 : Byte) (i : Nat) :
    (xor7 b4 b5 b6 b7 b8 b9 b10).getLsbD i
      = (b4.getLsbD i ^^ b5.getLsbD i ^^ b6.getLsbD i ^^ b7.getLsbD i ^^ b8.getLsbD i ^^ b9.getLsbD i ^^ b10.getLsbD i) := by
  simp only [xor7, BitVec.getLsbD_xor]

/-- The initial value 0 adds nothing (40_checksum.md R90). -/
theorem foldl_xor_eq_xor7 (b4 b5 b6 b7 b8 b9 b10 : Byte) :
    [b4, b5, b6, b7, b8, b9, b10].foldl (· ^^^ ·) 0 = xor7 b4 b5 b6 b7 b8 b9 b10 := by
  have hzero : (0 : Byte) ^^^ b4 = b4 := BitVec.zero_xor
  simp only [List.foldl_cons, List.foldl_nil, xor7, hzero]

/-- Settles O40: the fold does not see the order, as XOR is associative and commutative, and in the order of the bytes it is
`xor7`. -/
theorem checksumIsPlainXor : Obligations.ChecksumIsPlainXor := by
  unfold Obligations.ChecksumIsPlainXor
  intro b4 b5 b6 b7 b8 b9 b10
  refine ⟨getLsbD_xor7 b4 b5 b6 b7 b8 b9 b10, fun l hperm => ?_⟩
  calc l.foldl (· ^^^ ·) 0
    _ = [b4, b5, b6, b7, b8, b9, b10].foldl (· ^^^ ·) 0 := hperm.foldl_eq 0
    _ = xor7 b4 b5 b6 b7 b8 b9 b10 := foldl_xor_eq_xor7 b4 b5 b6 b7 b8 b9 b10

end Sys2Proof.Machine
end

section
/-! ENCODE (41_encode.md R100 to R108): when it refuses, the packet it leaves byte by byte, and that the packet is the function
`Frame.toPacket` of the Frame the TX registers hold. -/

namespace Sys2Proof.Machine

/-! ### Refusal and success -/

/-- The tests of 41_encode.md R103. -/
theorem frameInvalid_iff (s : State) :
    frameInvalid s = true ↔
      255 < s.txAddr ∨ 255 < s.txCmd ∨ 255 < s.txFlags ∨ 65535 < s.txPlen ∨ (s.txCtrl = true ∧ 65535 < s.txPoff)
        ∨ s.cfg.pbufSize < s.txPlen := by
  simp [frameInvalid, or_assoc]

theorem frameInvalid_of_inRange {s : State} (ha : s.txAddr ≤ 255) (hc : s.txCmd ≤ 255) (hf : s.txFlags ≤ 255)
    (hp : s.txPlen ≤ 65535) (ho : s.txCtrl = true → s.txPoff ≤ 65535) (hb : s.txPlen ≤ s.cfg.pbufSize) :
    frameInvalid s = false := by
  have hoffset : ¬ (s.txCtrl = true ∧ 65535 < s.txPoff) := fun ⟨hctrl, h⟩ => Nat.not_lt.2 (ho hctrl) h
  rw [← Bool.not_eq_true, frameInvalid_iff]
  simp only [Nat.not_lt.2 ha, Nat.not_lt.2 hc, Nat.not_lt.2 hf, Nat.not_lt.2 hp, Nat.not_lt.2 hb, hoffset, or_self,
    not_false_eq_true]

/-- ENCODE's InvalidFrame clears `TX_VALID` (60_exceptions.md R165). -/
theorem raise_invalidFrame (s : State) :
    raise .encode .invalidFrame s = { s with err := .invalidFrame, txValid := false } := by
  simp [raise, clearsTxValid, clearsRxValid]

theorem exec_encode_invalid {s : State} (h : frameInvalid s = true) :
    exec .encode s = .next { s with err := .invalidFrame, txValid := false } :=
  (execEncode_invalid h).trans (congrArg _ (raise_invalidFrame s))

theorem exec_encode_valid {s : State} (h : frameInvalid s = false) : exec .encode s = .next (encoded s) :=
  execEncode_valid h

/-- Settles O23: the two outcomes of ENCODE are told apart by `frameInvalid`, which is the disjunction of R103. -/
theorem encodeRefusesOversizedFields : Obligations.EncodeRefusesOversizedFields := by
  unfold Obligations.EncodeRefusesOversizedFields
  intro s _
  rw [← frameInvalid_iff]
  exact ⟨exec_encode_invalid, fun h => ⟨_, exec_encode_valid (Bool.eq_false_of_not_eq_true h), rfl, rfl⟩⟩

/-! ### The bytes of the packet -/

/-- Bytes 4 to 11 of the packet ENCODE builds, in either mode. -/
def encodedHeader (s : State) : Header := if longMode s then longHeader s else shortHeader s

theorem encodedHeader_long {s : State} (h : longMode s = true) : encodedHeader s = longHeader s := by
  simp [encodedHeader, h]

theorem encodedHeader_short {s : State} (h : longMode s = false) : encodedHeader s = shortHeader s := by
  simp [encodedHeader, h]

/-- The layout both formats share (30_encoding.md R64): marker, header, and in long mode the payload. -/
theorem encodedPacket_eq (s : State) :
    encodedPacket s
      = marker ++ (encodedHeader s).bytes ++ (if longMode s then s.bytes .tpay 0 s.txPlen else []) := by
  cases h : longMode s <;> simp [encodedPacket, encodedHeader, h]

/-- Bytes 0 to 11 in TXBUF after a successful ENCODE. -/
theorem encoded_byte_front (s : State) (k : Nat) (h : k < (marker ++ (encodedHeader s).bytes).length) :
    (encoded s).byte .txbuf k = (marker ++ (encodedHeader s).bytes)[k] := by
  have hk : k < (encodedPacket s).length := by
    rw [encodedPacket_eq, List.length_append]
    omega
  simp only [encoded_byte k hk, encodedPacket_eq, List.getElem_append_left h]

theorem encoded_marker (s : State) :
    (encoded s).byte .txbuf 0 = 0x00 ∧ (encoded s).byte .txbuf 1 = 0x55 ∧ (encoded s).byte .txbuf 2 = 0xAA
      ∧ (encoded s).byte .txbuf 3 = 0xFF := by
  refine ⟨?_, ?_, ?_, ?_⟩ <;> exact encoded_byte_front s _ (by simp [marker])

theorem encoded_header (s : State) :
    (encoded s).byte .txbuf 4 = (encodedHeader s).addr ∧ (encoded s).byte .txbuf 5 = (encodedHeader s).cmd
      ∧ (encoded s).byte .txbuf 6 = (encodedHeader s).flags ∧ (encoded s).byte .txbuf 7 = (encodedHeader s).x7
      ∧ (encoded s).byte .txbuf 8 = (encodedHeader s).x8 ∧ (encoded s).byte .txbuf 9 = (encodedHeader s).x9
      ∧ (encoded s).byte .txbuf 10 = (encodedHeader s).x10 ∧ (encoded s).byte .txbuf 11 = (encodedHeader s).sum := by
  refine ⟨?_, ?_, ?_, ?_, ?_, ?_, ?_, ?_⟩ <;> exact encoded_byte_front s _ (by simp [marker, Header.bytes])

theorem encodedHeader_sum (s : State) : (encodedHeader s).sum = headerSum (encodedHeader s) := by
  cases h : longMode s
  · rw [encodedHeader_short h]; rfl
  · rw [encodedHeader_long h]; rfl

/-- The checksum byte is the XOR of bytes 4 to 10 as they stand in TXBUF (40_checksum.md R93). -/
theorem encoded_sum (s : State) :
    (encoded s).byte .txbuf 11 = xor7 ((encoded s).byte .txbuf 4) ((encoded s).byte .txbuf 5) ((encoded s).byte .txbuf 6)
      ((encoded s).byte .txbuf 7) ((encoded s).byte .txbuf 8) ((encoded s).byte .txbuf 9) ((encoded s).byte .txbuf 10) := by
  obtain ⟨h4, h5, h6, h7, h8, h9, h10, h11⟩ := encoded_header s
  rw [h4, h5, h6, h7, h8, h9, h10, h11, encodedHeader_sum, headerSum]

/-- The body of a long packet is the payload as it stands in TPAY (41_encode.md R106). -/
theorem encoded_byte_body {s : State} (h : longMode s = true) (i : Nat) (hi : i < s.txPlen) :
    (encoded s).byte .txbuf (12 + i) = s.byte .tpay i := by
  have hfront : (marker ++ (encodedHeader s).bytes).length = 12 := rfl
  have hpacket : encodedPacket s = marker ++ (encodedHeader s).bytes ++ s.bytes .tpay 0 s.txPlen := by
    rw [encodedPacket_eq, if_pos h]
  have hk : 12 + i < (encodedPacket s).length := by simpa [length_encodedPacket, h] using hi
  simp only [encoded_byte _ hk, hpacket, List.getElem_append_right (hfront.le.trans (Nat.le_add_right 12 i)), getElem_bytes,
    hfront, Nat.add_sub_cancel_left, Nat.zero_add]

/-- The packet in TXBUF after a successful ENCODE, `TX_LEN` bytes of it. -/
theorem txPacket_encoded {s : State} (h : frameInvalid s = false) : txPacket (encoded s) = encodedPacket s := by
  have hlen : (encoded s).txLen.toNat = (encodedPacket s).length := by rw [encoded_txLen h, length_encodedPacket]
  refine List.ext_getElem (by simp [txPacket, hlen]) fun k _ hk => ?_
  simp [txPacket, encoded_byte k hk]

/-! ### The two layouts -/

theorem toNat_loByte {v : Nat} (h : v ≤ 255) : (loByte v).toNat = v := by
  simp only [loByte, BitVec.toNat_ofNat]
  omega

/-- A 16-bit field is its two bytes, the low byte first (00_scope.md R7). -/
theorem loByte_add_hiByte {v : Nat} (h : v ≤ 65535) : (loByte v).toNat + 256 * (hiByte v).toNat = v := by
  simp only [loByte, hiByte, BitVec.toNat_ofNat]
  omega

theorem longMode_iff (s : State) : longMode s = true ↔ 4 < s.txPlen ∨ s.txCtrl = true := by
  simp [longMode]

theorem longMode_eq_false {s : State} (hp : s.txPlen ≤ 4) (hctrl : s.txCtrl = false) : longMode s = false := by
  simp [longMode, hp, hctrl]

/-- In short mode the caller's flags are the final ones (41_encode.md R105). -/
theorem finalFlags_short {s : State} (h : longMode s = false) : finalFlags s = loByte s.txFlags := by
  simp [finalFlags, h]

theorem finalFlags_long {s : State} (h : longMode s = true) : finalFlags s = loByte s.txFlags ||| longBit := by
  simp [finalFlags, h]

/-- Bytes 7 to 10 of a short packet are the payload, padded with zero bytes on the right (41_encode.md R105). -/
theorem encoded_byte_shortPayload {s : State} (h : longMode s = false) (i : Nat) (hi : i < 4) :
    (encoded s).byte .txbuf (7 + i) = shortPayload s i := by
  obtain ⟨-, -, -, h7, h8, h9, h10, -⟩ := encoded_header s
  rw [encodedHeader_short h] at h7 h8 h9 h10
  match i, hi with
  | 0, _ => exact h7
  | 1, _ => exact h8
  | 2, _ => exact h9
  | 3, _ => exact h10

/-- Settles O24: the fields are in range and the mode is short, so the packet is the marker and `shortHeader`. -/
theorem encodeShortPacket : Obligations.EncodeShortPacket := by
  unfold Obligations.EncodeShortPacket
  intro s hcfg ha hc hf hp hctrl
  obtain ⟨-, hpbuf, -⟩ := hcfg
  have hv : frameInvalid s = false :=
    frameInvalid_of_inRange ha hc hf (by omega) (by simp [hctrl]) (hp.trans hpbuf)
  have hm : longMode s = false := longMode_eq_false hp hctrl
  obtain ⟨m0, m1, m2, m3⟩ := encoded_marker s
  obtain ⟨h4, h5, h6, -⟩ := encoded_header s
  rw [encodedHeader_short hm] at h4 h5 h6
  refine ⟨encoded s, exec_encode_valid hv, rfl, rfl, by simp [encoded_txLen hv, hm], m0, m1, m2, m3, ?_, ?_, ?_,
    encoded_byte_shortPayload hm, encoded_sum s⟩
  · rw [h4]
    exact toNat_loByte ha
  · rw [h5]
    exact toNat_loByte hc
  · rw [h6.trans (finalFlags_short hm)]
    exact toNat_loByte hf

theorem offsetField_le {s : State} (h : s.txCtrl = true → s.txPoff ≤ 65535) : offsetField s ≤ 65535 := by
  unfold offsetField
  split
  · next hctrl => exact h hctrl
  · omega

/-- Settles O25: the fields are in range and the mode is long, so the packet is the marker, `longHeader` and the payload. -/
theorem encodeLongPacket : Obligations.EncodeLongPacket := by
  unfold Obligations.EncodeLongPacket
  intro s hcfg ha hc hf hp ho hlong
  obtain ⟨-, -, hpbuf, -⟩ := hcfg
  have hp16 : s.txPlen ≤ 65535 := hp.trans hpbuf
  have hv : frameInvalid s = false := frameInvalid_of_inRange ha hc hf hp16 ho hp
  have hm : longMode s = true := (longMode_iff s).2 hlong
  obtain ⟨m0, m1, m2, m3⟩ := encoded_marker s
  obtain ⟨h4, h5, h6, h7, h8, h9, h10, -⟩ := encoded_header s
  rw [encodedHeader_long hm] at h4 h5 h6 h7 h8 h9 h10
  refine ⟨encoded s, exec_encode_valid hv, rfl, rfl, by simp [encoded_txLen hv, hm], m0, m1, m2, m3, ?_, ?_, ?_, ?_, ?_,
    encoded_sum s, encoded_byte_body hm⟩
  · rw [h4]
    exact toNat_loByte ha
  · rw [h5]
    exact toNat_loByte hc
  · exact h6.trans (finalFlags_long hm)
  · rw [h7, h8]
    exact loByte_add_hiByte hp16
  · rw [h9, h10]
    exact loByte_add_hiByte (offsetField_le ho)

/-! ### What ENCODE leaves unchanged -/

/-- A successful ENCODE is one of a Frame within the limits. -/
theorem exec_encode_none {s t : State} (h : exec .encode s = .next t) (herr : t.err = .none) :
    frameInvalid s = false ∧ t = encoded s := by
  rcases execEncode_cases s with ⟨-, hs⟩ | ⟨hv, hs⟩ <;> cases hs.symm.trans h
  · cases herr
  · exact ⟨hv, rfl⟩

theorem encoded_frame (s : State) :
    encoded s = { s with txbuf := (encoded s).txbuf, txLen := (encoded s).txLen, err := .none, txValid := true } := rfl

theorem sameOutside_encoded {s : State} (h : frameInvalid s = false) :
    SameOutside s (encoded s) .txbuf 0 (encoded s).txLen.toNat := by
  intro a ha
  rw [encoded_txLen h, ← length_encodedPacket] at ha
  exact (byte_congr rfl rfl a).trans (byte_store_outside s .txbuf 0 (encodedPacket s) a ha)

/-- ENCODE reads nothing that it writes, so a second packet is the first (41_encode.md R107). -/
theorem encoded_encoded (s : State) : encoded (encoded s) = encoded s := by
  calc encoded (encoded s)
    _ = { encoded s with txbuf := (s.txbuf.write 0 (encodedPacket s)).write 0 (encodedPacket s) } := rfl
    _ = { encoded s with txbuf := s.txbuf.write 0 (encodedPacket s) } := by rw [Memory.write_write_same]
    _ = encoded s := rfl

/-- Settles O26: the state left is `encoded s`, and encoding again writes the same bytes. -/
theorem encodeLeavesTheRest : Obligations.EncodeLeavesTheRest := by
  unfold Obligations.EncodeLeavesTheRest
  intro s t h herr
  obtain ⟨hv, rfl⟩ := exec_encode_none h herr
  have hagain : exec .encode (encoded s) = .next (encoded (encoded s)) := exec_encode_valid hv
  exact ⟨encoded_frame s, sameOutside_encoded hv, hagain.trans (congrArg _ (encoded_encoded s))⟩

/-! ### The packet as a function of the Frame -/

@[simp] theorem long_txFrame (s : State) : (txFrame s).long = longMode s := by
  cases h : s.txCtrl <;> simp [Frame.long, txFrame, longMode, h]

theorem getD_payloadOffset_txFrame (s : State) : (txFrame s).payloadOffset.getD 0 = offsetField s := by
  cases h : s.txCtrl <;> simp [txFrame, offsetField, h]

/-- The two tests of R103, on the registers and on the Frame they hold, are one. -/
theorem oversized_txFrame (s : State) : (txFrame s).oversized s.cfg.pbufSize = frameInvalid s := by
  rw [Bool.eq_iff_iff, frameInvalid_iff]
  cases h : s.txCtrl <;> simp [Frame.oversized, txFrame, h] <;> omega

/-- A payload of at most 4 bytes, padded to 4 (41_encode.md R105). -/
theorem padded_payload {s : State} (h : s.txPlen ≤ 4) :
    s.bytes .tpay 0 s.txPlen ++ List.replicate (4 - s.txPlen) 0
      = [shortPayload s 0, shortPayload s 1, shortPayload s 2, shortPayload s 3] := by
  refine List.ext_getElem (by simp; omega) fun k _ hk => ?_
  have hpad : (s.bytes .tpay 0 s.txPlen ++ List.replicate (4 - s.txPlen) 0)[k] = shortPayload s k := by
    simp [List.getElem_append, shortPayload]
  rw [hpad]
  match k, hk with
  | 0, _ => rfl
  | 1, _ => rfl
  | 2, _ => rfl
  | 3, _ => rfl

/-- The bytes the checksum covers are the header's but the last. -/
theorem covered_txFrame (s : State) :
    (txFrame s).covered = [(encodedHeader s).addr, (encodedHeader s).cmd, (encodedHeader s).flags, (encodedHeader s).x7,
      (encodedHeader s).x8, (encodedHeader s).x9, (encodedHeader s).x10] := by
  have hlen : (txFrame s).payload.length = s.txPlen := length_bytes s .tpay 0 s.txPlen
  cases h : longMode s with
  | true =>
    rw [Frame.covered, long_txFrame, if_pos h, getD_payloadOffset_txFrame, hlen, encodedHeader_long h, longHeader,
      finalFlags_long h]
    rfl
  | false =>
    have hp : s.txPlen ≤ 4 := by
      rw [← Nat.not_lt]
      exact fun hlt => by simp [(longMode_iff s).2 (.inl hlt)] at h
    have hpad := padded_payload hp
    rw [Frame.covered, long_txFrame, h, if_neg Bool.false_ne_true, hlen, encodedHeader_short h, shortHeader,
      finalFlags_short h]
    exact congrArg ([_, _, _] ++ ·) hpad

/-- ENCODE's packet is `encode(frame)` of the Frame the TX registers hold (30_encoding.md R60). -/
theorem toPacket_txFrame {s : State} (h : frameInvalid s = false) :
    (txFrame s).toPacket s.cfg.pbufSize = .ok (encodedPacket s) := by
  rw [Frame.toPacket, oversized_txFrame, h, if_neg Bool.false_ne_true, long_txFrame, covered_txFrame, foldl_xor_eq_xor7,
    encodedPacket_eq, Header.bytes, encodedHeader_sum, headerSum]
  simp [txFrame]

/-- Settles O27: both Frames are within the limits and equal, and the packet is a function of the Frame. -/
theorem encodeIsTotalAndDeterministic : Obligations.EncodeIsTotalAndDeterministic := by
  unfold Obligations.EncodeIsTotalAndDeterministic
  intro s s' _ hcfg hpbuf ha hc hf hp ho ha' hc' hf' hp' hctrl' ho' hbytes
  have hv : frameInvalid s = false := frameInvalid_of_inRange ha hc hf hp ho (hpbuf ▸ hp)
  have hframe : txFrame s' = txFrame s := by
    have hpayload : s'.bytes .tpay 0 s'.txPlen = s.bytes .tpay 0 s.txPlen := by
      rw [hp']
      exact bytes_eq_of_byte fun k hk => by simpa using hbytes k hk
    have hoffset : (if s.txCtrl then some s'.txPoff else none) = if s.txCtrl then some s.txPoff else none :=
      if_ctx_congr Iff.rfl (fun h => congrArg some (ho' h)) fun _ => rfl
    simp only [txFrame, ha', hc', hf', hctrl', hpayload, hoffset]
  have hv' : frameInvalid s' = false := by rw [← oversized_txFrame, hframe, hcfg, oversized_txFrame, hv]
  have hpacket : encodedPacket s' = encodedPacket s := by
    have h := toPacket_txFrame hv'
    rw [hframe, hcfg, toPacket_txFrame hv] at h
    exact (Except.ok.inj h).symm
  refine ⟨encoded s, encoded s', exec_encode_valid hv, exec_encode_valid hv', rfl, rfl, ?_⟩
  rw [txPacket_encoded hv, txPacket_encoded hv', hpacket]

end Sys2Proof.Machine
end

section
/-! DECODE and DECODE.NV (42_decode.md R120 to R135): what they answer, once for both, what a decode leaves unchanged and what it
reads. -/

namespace Sys2Proof.Machine

/-! ### The fields a decode reads -/

/-- The checksum test on the bytes of RXBUF (42_decode.md R124). -/
theorem csumOk_rxHeader_iff (s : State) :
    csumOk (rxHeader s) = true ↔ s.byte .rxbuf 4 ^^^ s.byte .rxbuf 5 ^^^ s.byte .rxbuf 6 ^^^ s.byte .rxbuf 7 ^^^ s.byte .rxbuf 8
      ^^^ s.byte .rxbuf 9 ^^^ s.byte .rxbuf 10 = s.byte .rxbuf 11 :=
  beq_iff_eq

/-- Bit 7 of the flags byte makes a packet long (30_encoding.md R66). -/
theorem long_rxHeader (s : State) : (rxHeader s).long = (s.byte .rxbuf 6).getLsbD 7 := rfl

theorem toNat_length_rxHeader (s : State) :
    (rxHeader s).length.toNat = (s.byte .rxbuf 7).toNat + 256 * (s.byte .rxbuf 8).toNat :=
  unle16_toNat _ _

theorem toNat_offset_rxHeader (s : State) :
    (rxHeader s).offset.toNat = (s.byte .rxbuf 9).toNat + 256 * (s.byte .rxbuf 10).toNat :=
  unle16_toNat _ _

theorem sumBad_true_iff (h : Header) : sumBad true h = true ↔ ¬ csumOk h = true := by
  simp [sumBad]

theorem sumBad_eq_false_iff (verify : Bool) (h : Header) : sumBad verify h = false ↔ (verify = true → csumOk h = true) := by
  cases verify <;> simp [sumBad]

theorem bodyShort_eq_true_iff (n : Nat) (h : Header) :
    bodyShort n h = true ↔ h.long = true ∧ n < 12 + h.length.toNat := by
  simp [bodyShort]

theorem bodyShort_eq_false_iff (n : Nat) (h : Header) :
    bodyShort n h = false ↔ (h.long = true → 12 + h.length.toNat ≤ n) := by
  simp [bodyShort]

/-- The payload of the Frame in RXBUF: the body of a long packet, bytes 7 to 10 of a short one (42_decode.md R125, R126). -/
def rxPayload (s : State) : List Byte :=
  if (rxHeader s).long then s.bytes .rxbuf 12 (rxHeader s).length.toNat else s.bytes .rxbuf 7 4

theorem rxPayload_long {s : State} (h : (rxHeader s).long = true) :
    rxPayload s = s.bytes .rxbuf 12 (rxHeader s).length.toNat := by
  simp [rxPayload, h]

theorem rxPayload_short {s : State} (h : (rxHeader s).long = false) : rxPayload s = s.bytes .rxbuf 7 4 := by
  simp [rxPayload, h]

/-- The offset of the Frame in RXBUF, 0 where it has none (42_decode.md R125, R126). -/
def rxOffset (s : State) : BitVec 16 := if (rxHeader s).long then (rxHeader s).offset else 0

/-- A successful decode in either format (42_decode.md R128). -/
theorem decoded_eq (s : State) :
    decoded s =
      { s.store .rpay 0 (rxPayload s) with
        rxAddr := (rxHeader s).addr, rxCmd := (rxHeader s).cmd, rxFlags := (rxHeader s).flags
        rxPlen := BitVec.ofNat 16 (rxPayload s).length, rxPoff := rxOffset s, rxInfo := (rxHeader s).long
        err := .none, rxValid := true } := by
  cases h : (rxHeader s).long
  · simp [decoded, h, decodedShort, rxPayload_short h, rxOffset]
    rfl
  · simp [decoded, h, decodedLong, rxPayload_long h, rxOffset]

@[simp] theorem cfg_decoded (s : State) : (decoded s).cfg = s.cfg := by simp [decoded_eq]

@[simp] theorem epoch_decoded (s : State) : (decoded s).epoch = s.epoch := by simp [decoded_eq]

@[simp] theorem err_decoded (s : State) : (decoded s).err = .none := by rw [decoded_eq]

@[simp] theorem rxValid_decoded (s : State) : (decoded s).rxValid = true := by rw [decoded_eq]

@[simp] theorem rxbuf_decoded (s : State) : (decoded s).rxbuf = s.rxbuf := by simp [decoded_eq]

@[simp] theorem rxLen_decoded (s : State) : (decoded s).rxLen = s.rxLen := by simp [decoded_eq]

@[simp] theorem rxInfo_decoded (s : State) : (decoded s).rxInfo = (rxHeader s).long := by rw [decoded_eq]

theorem rxPoff_decoded (s : State) : (decoded s).rxPoff = rxOffset s := by rw [decoded_eq]

/-- Address, command and flags are bytes 4, 5 and 6 in either format (42_decode.md R123). -/
theorem decoded_fields (s : State) :
    (decoded s).rxAddr = s.byte .rxbuf 4 ∧ (decoded s).rxCmd = s.byte .rxbuf 5 ∧ (decoded s).rxFlags = s.byte .rxbuf 6 := by
  rw [decoded_eq]
  exact ⟨rfl, rfl, rfl⟩

theorem length_rxPayload_lt (s : State) : (rxPayload s).length < 2 ^ 16 := by
  cases h : (rxHeader s).long
  · simp [rxPayload_short h]
  · simpa [rxPayload_long h] using (rxHeader s).length.isLt

theorem toNat_rxPlen_decoded (s : State) : (decoded s).rxPlen.toNat = (rxPayload s).length := by
  rw [decoded_eq]
  exact (BitVec.toNat_ofNat ..).trans (Nat.mod_eq_of_lt (length_rxPayload_lt s))

theorem byte_rpay_decoded (s : State) (k : Nat) (h : k < (rxPayload s).length) :
    (decoded s).byte .rpay k = (rxPayload s)[k] := by
  rw [decoded_eq]
  exact (byte_congr rfl rfl k).trans (byte_store_zero s .rpay _ k h)

/-! ### What a decode answers -/

/-- Both decodes are `decodeWith`; the checksum test is DECODE's (42_decode.md R121). -/
theorem exec_eq_decodeWith {i : Instr} (hi : i = .decode ∨ i = .decodeNV) :
    ∃ op, (op = .decode ∨ op = .decodeNV) ∧ ∀ s, exec i s = decodeWith op (decide (i = .decode)) s := by
  rcases hi with rfl | rfl
  · exact ⟨.decode, .inl rfl, fun _ => rfl⟩
  · exact ⟨.decodeNV, .inr rfl, fun _ => rfl⟩

/-- IllegalOp clears neither VALID bit (60_exceptions.md R165). -/
theorem raise_illegalOp (op : Operation) (s : State) : raise op .illegalOp s = { s with err := .illegalOp } := by
  cases op <;> simp [raise, clearsTxValid, clearsRxValid]

/-- The other two errors of a decode clear `RX_VALID` (60_exceptions.md R165). -/
theorem raise_decode {op : Operation} {e : Err} (hop : op = .decode ∨ op = .decodeNV)
    (he : e = .truncatedFrame ∨ e = .checksumMismatch) (s : State) :
    raise op e s = { s with err := e, rxValid := false } := by
  rcases hop with rfl | rfl <;> rcases he with rfl | rfl <;> simp [raise, clearsTxValid, clearsRxValid]

/-- `i` finds a Frame in RXBUF, with room for its payload in RPAY. -/
structure FindsFrame (i : Instr) (s : State) : Prop where
  inRxbuf : s.rxLen ≤ s.cfg.rbufSize
  header : 12 ≤ s.rxLen
  sum : i = .decode → csumOk (rxHeader s) = true
  body : (rxHeader s).long = true → 12 + (rxHeader s).length.toNat ≤ s.rxLen
  inRpay : (rxPayload s).length ≤ s.cfg.pbufSize

/-- The parameters of 00_scope.md R6 leave room for every payload (42_decode.md R130). -/
theorem FindsFrame.of_ok {i : Instr} {s : State} (hc : s.cfg.ok) (hn : s.rxLen ≤ s.cfg.rbufSize) (h12 : 12 ≤ s.rxLen)
    (hsum : i = .decode → csumOk (rxHeader s) = true)
    (hbody : (rxHeader s).long = true → 12 + (rxHeader s).length.toNat ≤ s.rxLen) : FindsFrame i s := by
  refine ⟨hn, h12, hsum, hbody, ?_⟩
  cases hl : (rxHeader s).long
  · obtain ⟨-, h4, -⟩ := hc
    simpa [rxPayload_short hl] using h4
  · simpa [rxPayload_long hl] using (body_fits hc hn ((bodyShort_eq_false_iff _ _).2 hbody) hl).2

section
variable {i : Instr} {s t : State} (hi : i = .decode ∨ i = .decodeNV)
include hi

theorem exec_decode_tooLong (h : s.cfg.rbufSize < s.rxLen) : exec i s = .next { s with err := .illegalOp } := by
  obtain ⟨op, -, hexec⟩ := exec_eq_decodeWith hi
  rw [hexec, decodeWith_tooLong h, raise_illegalOp]

theorem exec_decode_noHeader (hn : s.rxLen ≤ s.cfg.rbufSize) (h : s.rxLen < 12) :
    exec i s = .next { s with err := .truncatedFrame, rxValid := false } := by
  obtain ⟨op, hop, hexec⟩ := exec_eq_decodeWith hi
  rw [hexec, decodeWith_noHeader hn h, raise_decode hop (.inl rfl)]

theorem exec_decode_error {e : Err} (hn : s.rxLen ≤ s.cfg.rbufSize) (h12 : 12 ≤ s.rxLen)
    (he : decodeError s.cfg.checkOrder (sumBad (decide (i = .decode)) (rxHeader s)) (bodyShort s.rxLen (rxHeader s)) = some e) :
    exec i s = .next { s with err := e, rxValid := false } := by
  obtain ⟨op, hop, hexec⟩ := exec_eq_decodeWith hi
  have herr : e = .truncatedFrame ∨ e = .checksumMismatch := by
    rcases decodeError_some he with ⟨h, -⟩ | ⟨h, -⟩
    · exact .inr h
    · exact .inl h
  rw [hexec, decodeWith_error hn h12 he, raise_decode hop herr]

theorem exec_decode_frame (h : FindsFrame i s) : exec i s = .next (decoded s) := by
  obtain ⟨op, -, hexec⟩ := exec_eq_decodeWith hi
  have hsum : sumBad (decide (i = .decode)) (rxHeader s) = false := (sumBad_eq_false_iff _ _).2 (by simpa using h.sum)
  rw [hexec]
  refine decodeWith_frame h.inRxbuf h.header hsum ((bodyShort_eq_false_iff _ _).2 h.body) (fun hl => ?_) fun hl => ?_
  · simpa [rxPayload_long hl] using h.inRpay
  · simpa [rxPayload_short hl] using h.inRpay

/-- Every way a decode answers a next state: IllegalOp, one of the other two errors, or the Frame. -/
theorem exec_decode_next (h : exec i s = .next t) :
    (s.cfg.rbufSize < s.rxLen ∧ t = { s with err := .illegalOp })
      ∨ (s.rxLen ≤ s.cfg.rbufSize ∧ ∃ e, (e = .truncatedFrame ∨ i = .decode ∧ e = .checksumMismatch)
          ∧ t = { s with err := e, rxValid := false })
      ∨ (FindsFrame i s ∧ t = decoded s) := by
  obtain ⟨op, hop, hexec⟩ := exec_eq_decodeWith hi
  rw [hexec] at h
  rcases decodeWith_next h with ⟨hn, rfl⟩ | ⟨hn, -, rfl⟩ | ⟨hn, -, e, he, rfl⟩ |
    ⟨hn, h12, hsum, hbody, rfl, hlong, hshort⟩
  · exact .inl ⟨hn, raise_illegalOp op s⟩
  · exact .inr (.inl ⟨hn, _, .inl rfl, raise_decode hop (.inl rfl) s⟩)
  · rcases decodeError_some he with ⟨rfl, hbad⟩ | ⟨rfl, -⟩
    · obtain ⟨hverify, -⟩ := Bool.and_eq_true_iff.1 hbad
      exact .inr (.inl ⟨hn, _, .inr ⟨of_decide_eq_true hverify, rfl⟩, raise_decode hop (.inr rfl) s⟩)
    · exact .inr (.inl ⟨hn, _, .inl rfl, raise_decode hop (.inl rfl) s⟩)
  · refine .inr (.inr ⟨⟨hn, h12, ?_, (bodyShort_eq_false_iff _ _).1 hbody, ?_⟩, rfl⟩)
    · simpa using (sumBad_eq_false_iff _ _).1 hsum
    · cases hl : (rxHeader s).long
      · simpa [rxPayload_short hl] using hshort hl
      · simpa [rxPayload_long hl] using hlong hl

/-- A successful decode is one that found a Frame. -/
theorem exec_decode_none (h : exec i s = .next t) (herr : t.err = .none) : FindsFrame i s ∧ t = decoded s := by
  rcases exec_decode_next hi h with ⟨-, rfl⟩ | ⟨-, e, he, rfl⟩ | hframe
  · cases herr
  · rcases he with rfl | ⟨-, rfl⟩ <;> cases herr
  · exact hframe

/-- The decoder is total (42_decode.md R134). -/
theorem exec_decode_total (hc : s.cfg.ok) : ∃ t, exec i s = .next t := by
  rcases Nat.lt_or_ge s.cfg.rbufSize s.rxLen with hn | hn
  · exact ⟨_, exec_decode_tooLong hi hn⟩
  · rcases Nat.lt_or_ge s.rxLen 12 with h12 | h12
    · exact ⟨_, exec_decode_noHeader hi hn h12⟩
    · cases he : decodeError s.cfg.checkOrder (sumBad (decide (i = .decode)) (rxHeader s)) (bodyShort s.rxLen (rxHeader s)) with
      | some e => exact ⟨_, exec_decode_error hi hn h12 he⟩
      | none =>
        obtain ⟨hsum, hbody⟩ := decodeError_none he
        exact ⟨_, exec_decode_frame hi (.of_ok hc hn h12 (by simpa using (sumBad_eq_false_iff _ _).1 hsum)
          ((bodyShort_eq_false_iff _ _).1 hbody))⟩

end

/-! ### Errors -/

/-- Settles O29: 12 bytes fit RXBUF, so the length is not refused and the header test is the first. -/
theorem decodeNeedsTwelveBytes : Obligations.DecodeNeedsTwelveBytes := by
  unfold Obligations.DecodeNeedsTwelveBytes
  intro s i hi hc h12
  obtain ⟨-, -, -, hr, -⟩ := hc
  exact exec_decode_noHeader hi (by omega) h12

/-- The checksum error is reported when it is tested first or is the only one (42_decode.md R124). -/
theorem decodeError_checksum {order : CheckOrder} {bad short : Bool} (hbad : bad = true)
    (h : order = .csumFirst ∨ short = false) : decodeError order bad short = some .checksumMismatch := by
  cases order <;> simp_all [decodeError]

/-- The body-length error is reported when it is tested first or is the only one (42_decode.md R124). -/
theorem decodeError_truncated {order : CheckOrder} {bad short : Bool} (hshort : short = true)
    (h : order = .truncFirst ∨ bad = false) : decodeError order bad short = some .truncatedFrame := by
  cases order <;> simp_all [decodeError]

/-- Settles O31: `bad` and `short` are the two tests of `decodeError`; DECODE.NV never makes the first. -/
theorem decodeErrorOrder : Obligations.DecodeErrorOrder := by
  unfold Obligations.DecodeErrorOrder
  intro s hc h12 hn bad short hbad hshort
  have hsum : sumBad true (rxHeader s) = true ↔ bad := by
    rw [sumBad_true_iff, csumOk_rxHeader_iff]
    exact hbad.symm
  have hbody : bodyShort s.rxLen (rxHeader s) = true ↔ short := by
    rw [bodyShort_eq_true_iff, toNat_length_rxHeader]
    exact hshort.symm
  have hsumOk (h : ¬ bad) : sumBad true (rxHeader s) = false := Bool.eq_false_iff.2 (mt hsum.1 h)
  have hbodyThere (h : ¬ short) : bodyShort s.rxLen (rxHeader s) = false := Bool.eq_false_iff.2 (mt hbody.1 h)
  refine ⟨fun hb ho => ?_, fun hs ho => ?_, fun hs => ?_, fun hb hs => ?_, fun hs => ?_⟩
  · exact exec_decode_error (.inl rfl) hn h12 (decodeError_checksum (hsum.2 hb) (ho.imp_right hbodyThere))
  · exact exec_decode_error (.inl rfl) hn h12 (decodeError_truncated (hbody.2 hs) (ho.imp_right hsumOk))
  · exact exec_decode_error (.inr rfl) hn h12 (decodeError_truncated (hbody.2 hs) (.inr rfl))
  · have hframe : FindsFrame .decode s := .of_ok hc hn h12 (fun _ => (sumBad_eq_false_iff _ _).1 (hsumOk hb) rfl)
      ((bodyShort_eq_false_iff _ _).1 (hbodyThere hs))
    exact ⟨_, exec_decode_frame (.inl rfl) hframe, err_decoded s⟩
  · have hframe : FindsFrame .decodeNV s := .of_ok hc hn h12 (fun h => by cases h)
      ((bodyShort_eq_false_iff _ _).1 (hbodyThere hs))
    exact ⟨_, exec_decode_frame (.inr rfl) hframe, err_decoded s⟩

/-! ### What a decode leaves unchanged -/

/-- A successful decode writes RPAY[0 .. RX_PLEN-1] only (42_decode.md R128). -/
theorem sameOutside_decoded (s : State) : SameOutside s (decoded s) .rpay 0 (decoded s).rxPlen.toNat := by
  intro a ha
  rw [toNat_rxPlen_decoded] at ha
  rw [decoded_eq]
  exact (byte_congr rfl rfl a).trans (byte_store_outside s .rpay 0 (rxPayload s) a ha)

/-- The Frame in RXBUF is the same for states with the same RXBUF. -/
theorem rxHeader_congr {s t : State} (hm : t.rxbuf = s.rxbuf) (he : t.epoch = s.epoch) : rxHeader t = rxHeader s := by
  simp only [rxHeader, byte_congr (s := s) (t := t) (sp := .rxbuf) hm he]

theorem rxPayload_congr {s t : State} (hm : t.rxbuf = s.rxbuf) (he : t.epoch = s.epoch) : rxPayload t = rxPayload s := by
  simp only [rxPayload, rxHeader_congr hm he, bytes_congr (s := s) (t := t) (sp := .rxbuf) hm he]

@[simp] theorem rxHeader_decoded (s : State) : rxHeader (decoded s) = rxHeader s :=
  rxHeader_congr (rxbuf_decoded s) (epoch_decoded s)

@[simp] theorem rxPayload_decoded (s : State) : rxPayload (decoded s) = rxPayload s :=
  rxPayload_congr (rxbuf_decoded s) (epoch_decoded s)

/-- A decode reads nothing that it writes, so a second Frame is the first (42_decode.md R128). -/
theorem decoded_decoded (s : State) : decoded (decoded s) = decoded s := by
  rw [decoded_eq (decoded s), rxOffset, rxHeader_decoded, rxPayload_decoded, decoded_eq s]
  simp [State.store, State.setMem, Memory.write_write_same, rxOffset]

theorem FindsFrame.decoded {i : Instr} {s : State} (h : FindsFrame i s) : FindsFrame i (decoded s) := by
  constructor
  · simpa using h.inRxbuf
  · simpa using h.header
  · simpa using h.sum
  · simpa using h.body
  · simpa using h.inRpay

theorem decoded_eq_update (s : State) :
    decoded s =
      { s with
        rxAddr := (decoded s).rxAddr, rxCmd := (decoded s).rxCmd, rxFlags := (decoded s).rxFlags, rxPlen := (decoded s).rxPlen
        rxPoff := (decoded s).rxPoff, rxInfo := (decoded s).rxInfo, rpay := (decoded s).rpay
        err := .none, rxValid := true } := by
  rw [decoded_eq]
  rfl

/-- Settles O34: a failed decode changes `STATUS` only, and a successful one leaves `decoded s`, which decodes to itself. -/
theorem decodeLeavesTheRest : Obligations.DecodeLeavesTheRest := by
  unfold Obligations.DecodeLeavesTheRest
  intro s t i hi h
  obtain ⟨-, -, htx, hvalid⟩ := (onRxSide_exec hi).frame h
  refine ⟨fun herr => ?_, ?_⟩
  · obtain ⟨hframe, rfl⟩ := exec_decode_none hi h herr
    exact ⟨decoded_eq_update s, (exec_decode_frame hi hframe.decoded).trans (congrArg _ (decoded_decoded s))⟩
  · rcases exec_decode_next hi h with ⟨-, rfl⟩ | ⟨-, e, -, rfl⟩ | ⟨-, rfl⟩
    · exact ⟨rfl, rfl, fun _ _ => rfl, htx, hvalid⟩
    · exact ⟨rfl, rfl, fun _ _ => rfl, htx, hvalid⟩
    · exact ⟨rxLen_decoded s, rxbuf_decoded s, sameOutside_decoded s, htx, hvalid⟩

/-- No decode writes beyond RPAY (42_decode.md R130, R134). -/
theorem exec_decode_keeps_beyond_rpay {i : Instr} {s t : State} (hi : i = .decode ∨ i = .decodeNV) (h : exec i s = .next t)
    (a : Nat) (ha : s.cfg.pbufSize ≤ a) : t.byte .rpay a = s.byte .rpay a := by
  rcases exec_decode_next hi h with ⟨-, rfl⟩ | ⟨-, e, -, rfl⟩ | ⟨hframe, rfl⟩
  · rfl
  · rfl
  · have hfit : (decoded s).rxPlen.toNat ≤ s.cfg.pbufSize := (toNat_rxPlen_decoded s).trans_le hframe.inRpay
    exact sameOutside_decoded s a (.inr (by omega))

/-- Settles O30: an overlong `RX_LEN` is refused first, and a Frame that is found fits RPAY. -/
theorem decodeRefusesOverlongLength : Obligations.DecodeRefusesOverlongLength := by
  unfold Obligations.DecodeRefusesOverlongLength
  refine fun s i hi => ⟨exec_decode_tooLong hi, fun hc hn => ?_⟩
  obtain ⟨t, ht⟩ := exec_decode_total hi hc
  refine ⟨t, ht, fun herr => ?_, exec_decode_keeps_beyond_rpay hi ht⟩
  obtain ⟨hframe, rfl⟩ := exec_decode_none hi ht herr
  exact (toNat_rxPlen_decoded s).trans_le hframe.inRpay

/-! ### What a decode reads -/

/-- The state a decode leaves, with other RXBUF contents that spell the same Frame. -/
theorem decoded_rxbuf {s : State} {m : Memory} (hheader : rxHeader { s with rxbuf := m } = rxHeader s)
    (hpayload : rxPayload { s with rxbuf := m } = rxPayload s) :
    decoded { s with rxbuf := m } = { decoded s with rxbuf := m } := by
  rw [decoded_eq { s with rxbuf := m }, rxOffset, hheader, hpayload, decoded_eq s]
  rfl

/-- A decode looks at its 12 header bytes only if they are there, and at the body of a long packet only if it is there
(42_decode.md R123, R129, R134). -/
theorem exec_decode_rxbuf {i : Instr} {s t : State} (hi : i = .decode ∨ i = .decodeNV) (h : exec i s = .next t) (m : Memory)
    (hheader : 12 ≤ s.rxLen → rxHeader { s with rxbuf := m } = rxHeader s)
    (hpayload : 12 ≤ s.rxLen → ((rxHeader s).long = true → 12 + (rxHeader s).length.toNat ≤ s.rxLen) →
      rxPayload { s with rxbuf := m } = rxPayload s) :
    exec i { s with rxbuf := m } = .next { t with rxbuf := m } := by
  obtain ⟨op, -, hexec⟩ := exec_eq_decodeWith hi
  rw [hexec] at h ⊢
  rcases decodeWith_next h with ⟨hn, rfl⟩ | ⟨hn, h12, rfl⟩ | ⟨hn, h12, e, he, rfl⟩ |
    ⟨hn, h12, hsum, hbody, rfl, hlong, hshort⟩
  · exact decodeWith_tooLong hn
  · exact decodeWith_noHeader hn h12
  · rw [← hheader h12] at he
    exact decodeWith_error hn h12 he
  · rw [← decoded_rxbuf (hheader h12) (hpayload h12 ((bodyShort_eq_false_iff _ _).1 hbody))]
    rw [← hheader h12] at hsum hbody hlong hshort
    exact decodeWith_frame hn h12 hsum hbody hlong hshort

/-- Settles O37: the three endings are those of `exec_decode_next`, and header and body lie in RXBUF[0 .. RX_LEN-1]. -/
theorem decodeIsTotal : Obligations.DecodeIsTotal := by
  unfold Obligations.DecodeIsTotal
  intro s i hi hc hn
  obtain ⟨t, ht⟩ := exec_decode_total hi hc
  refine ⟨t, ht, ?_, fun m hm => ?_, exec_decode_keeps_beyond_rpay hi ht⟩
  · rcases exec_decode_next hi ht with ⟨hlong, -⟩ | ⟨-, e, he, rfl⟩ | ⟨-, rfl⟩
    · omega
    · rcases he with rfl | ⟨hdec, rfl⟩
      · exact .inr (.inl ⟨rfl, rfl⟩)
      · exact .inr (.inr ⟨hdec, rfl, rfl⟩)
    · exact .inl ⟨err_decoded s, rxValid_decoded s⟩
  · have hheader (h12 : 12 ≤ s.rxLen) : rxHeader { s with rxbuf := m } = rxHeader s := by
      have hbyte (k : Nat) (hk : k < 12) : ({ s with rxbuf := m } : State).byte .rxbuf k = s.byte .rxbuf k :=
        hm k (hk.trans_le h12)
      simp [rxHeader, hbyte]
    refine exec_decode_rxbuf hi ht m hheader fun h12 hbody => ?_
    cases hl : (rxHeader s).long
    · rw [rxPayload_short hl, rxPayload_short (by rwa [hheader h12])]
      exact bytes_eq_of_byte fun k hk => hm _ (by omega)
    · rw [rxPayload_long hl, rxPayload_long (by rwa [hheader h12]), hheader h12]
      have hfit := hbody hl
      exact bytes_eq_of_byte fun k hk => hm _ (by omega)

/-! ### The decoded Frame -/

/-- Settles O35: the flags are copied whole, and their bit 7 is what makes a packet long. -/
theorem decodeReturnsTheFlags : Obligations.DecodeReturnsTheFlags := by
  unfold Obligations.DecodeReturnsTheFlags
  intro s t i hi h herr
  obtain ⟨-, rfl⟩ := exec_decode_none hi h herr
  obtain ⟨-, -, hflags⟩ := decoded_fields s
  exact ⟨hflags, by rw [rxInfo_decoded, long_rxHeader, hflags]⟩

/-- The Frame of a short packet, field by field (42_decode.md R126). -/
theorem decoded_short {s : State} (h : (rxHeader s).long = false) :
    (decoded s).rxPlen.toNat = 4 ∧ (∀ k < 4, (decoded s).byte .rpay k = s.byte .rxbuf (7 + k))
      ∧ (decoded s).rxInfo = false ∧ (decoded s).rxPoff = 0 := by
  have hlen : (rxPayload s).length = 4 := by simp [rxPayload_short h]
  refine ⟨(toNat_rxPlen_decoded s).trans hlen, fun k hk => ?_, (rxInfo_decoded s).trans h,
    by simp [rxPoff_decoded, rxOffset, h]⟩
  simp [byte_rpay_decoded s k (by omega), rxPayload_short h]

/-- The Frame of a long packet, field by field (42_decode.md R125). -/
theorem decoded_long {s : State} (h : (rxHeader s).long = true) :
    (decoded s).rxPlen.toNat = (rxHeader s).length.toNat
      ∧ (∀ k < (rxHeader s).length.toNat, (decoded s).byte .rpay k = s.byte .rxbuf (12 + k))
      ∧ (decoded s).rxInfo = true ∧ (decoded s).rxPoff = (rxHeader s).offset := by
  have hlen : (rxPayload s).length = (rxHeader s).length.toNat := by simp [rxPayload_long h]
  refine ⟨(toNat_rxPlen_decoded s).trans hlen, fun k hk => ?_, (rxInfo_decoded s).trans h,
    by simp [rxPoff_decoded, rxOffset, h]⟩
  simp [byte_rpay_decoded s k (by omega), rxPayload_long h]

/-- Settles O32: a short packet announces no body, so the checksum is the one test left. -/
theorem decodeShortFrame : Obligations.DecodeShortFrame := by
  unfold Obligations.DecodeShortFrame
  intro s i hi hc h12 hn hflag hsum
  have hl : (rxHeader s).long = false := (long_rxHeader s).trans hflag
  have hframe : FindsFrame i s := .of_ok hc hn h12 (fun hdec => (csumOk_rxHeader_iff s).2 (hsum hdec)) (by simp [hl])
  obtain ⟨ha, hcmd, hf⟩ := decoded_fields s
  exact ⟨_, exec_decode_frame hi hframe, err_decoded s, rxValid_decoded s, ha, hcmd, hf, decoded_short hl⟩

end Sys2Proof.Machine
end

section
/-! Round trips (42_decode.md R132, R133, R135): a Frame through ENCODE, LOOPBACK and a decode, and a packet through DECODE and
ENCODE. -/

namespace Sys2Proof.Machine

/-! ### From a Frame to a packet and back -/

/-- LOOPBACK puts the packet of TXBUF into RXBUF (30_encoding.md R79). -/
theorem byte_loopedBack (s : State) (k : Nat) (h : k < s.txLen.toNat) :
    (loopedBack s).byte .rxbuf k = s.byte .txbuf k := by
  have hk : k < (txPacket s).length := by simpa [txPacket] using h
  calc (loopedBack s).byte .rxbuf k
    _ = (s.store .rxbuf 0 (txPacket s)).byte .rxbuf k := byte_congr rfl rfl k
    _ = (txPacket s)[k] := byte_store_zero s .rxbuf _ k hk
    _ = s.byte .txbuf k := by simp [txPacket]

/-- Neither ENCODE nor LOOPBACK changes the parameters. -/
theorem cfg_loopedBack_of_encode {s t : State} (h : exec .encode s = .next t) : (loopedBack t).cfg = s.cfg := by
  obtain ⟨hcfg, -⟩ := onTxSide_encode.frame h
  exact (store_cfg t .rxbuf 0 (txPacket t)).trans hcfg

theorem getLsbD_seven_of_lt {b : Byte} (h : b.toNat < 128) : b.getLsbD 7 = false :=
  Nat.testBit_lt_two_pow h

/-- Settles O43: the short packet of O24, looped back, is one O32 decodes. -/
theorem shortRoundTrip : Obligations.ShortRoundTrip := by
  unfold Obligations.ShortRoundTrip
  intro s i hi hc ha hcmd hf hp hctrl
  obtain ⟨t, ht, -, -, hlen, -, -, -, -, h4, h5, h6, hpay, hsum⟩ := encodeShortPacket s hc ha hcmd (by omega) hp hctrl
  have hcfg : (loopedBack t).cfg = s.cfg := cfg_loopedBack_of_encode ht
  have hrxLen : (loopedBack t).rxLen = 12 := hlen
  have hrx (k : Nat) (hk : k < 12) : (loopedBack t).byte .rxbuf k = t.byte .txbuf k :=
    byte_loopedBack t k (hk.trans_eq hlen.symm)
  have hflag : ((loopedBack t).byte .rxbuf 6).getLsbD 7 = false := by
    rw [hrx 6 (by omega)]
    exact getLsbD_seven_of_lt (by omega)
  have hroom : 12 ≤ s.cfg.rbufSize := by
    obtain ⟨-, -, -, hr, -⟩ := hc
    exact hr
  obtain ⟨u, hu, herr, hvalid, h4', h5', h6', hplen, hpay', hinfo, -⟩ :=
    decodeShortFrame (loopedBack t) i hi (hcfg ▸ hc) hrxLen.ge (hrxLen.trans_le (hcfg ▸ hroom)) hflag fun _ => by
      simp [hrx, hsum]
  rw [hrx _ (by omega)] at h4' h5' h6'
  refine ⟨t, u, ht, hu, herr, hvalid, h4' ▸ h4, h5' ▸ h5, h6' ▸ h6, hinfo, hplen, fun k hk => ?_⟩
  rw [hpay' k hk, hrx _ (by omega), hpay k hk]

/-- Settles O44: the long packet of O25, looped back, is a long Frame whose body is there. -/
theorem longRoundTrip : Obligations.LongRoundTrip := by
  unfold Obligations.LongRoundTrip
  intro s i hi hc ha hcmd hf hp hfit ho hlong
  obtain ⟨t, ht, -, -, hlen, -, -, -, -, h4, h5, h6, h78, h910, hsum, hbody⟩ := encodeLongPacket s hc ha hcmd hf hp ho hlong
  have hcfg : (loopedBack t).cfg = s.cfg := cfg_loopedBack_of_encode ht
  have hrxLen : (loopedBack t).rxLen = 12 + s.txPlen := hlen
  have hrx (k : Nat) (hk : k < 12 + s.txPlen) : (loopedBack t).byte .rxbuf k = t.byte .txbuf k :=
    byte_loopedBack t k (hk.trans_eq hlen.symm)
  have hhead (k : Nat) (hk : k < 12) : (loopedBack t).byte .rxbuf k = t.byte .txbuf k := hrx k (by omega)
  have hl : (rxHeader (loopedBack t)).long = true := by
    rw [long_rxHeader, hhead 6 (by omega), h6]
    simp
  have hplen : (rxHeader (loopedBack t)).length.toNat = s.txPlen := by simp [toNat_length_rxHeader, hhead, h78]
  have hframe : FindsFrame i (loopedBack t) := by
    refine .of_ok (hcfg ▸ hc) (hrxLen.trans_le (hcfg ▸ hfit)) (by omega) (fun _ => ?_) (fun _ => by omega)
    simp [csumOk_rxHeader_iff, hhead, hsum]
  obtain ⟨h4', h5', h6'⟩ := decoded_fields (loopedBack t)
  obtain ⟨hplen', hpay', hinfo, hoff⟩ := decoded_long hl
  rw [hhead _ (by omega)] at h4' h5' h6'
  refine ⟨t, _, ht, exec_decode_frame hi hframe, err_decoded _, rxValid_decoded _, h4' ▸ h4, h5' ▸ h5, h6'.trans h6,
    hinfo, ?_, hplen'.trans hplen, fun k hk => ?_⟩
  · simp [hoff, toNat_offset_rxHeader, hhead, h910]
  · rw [hpay' k (hplen ▸ hk), hrx _ (by omega), hbody k hk]

/-! ### From a packet to a Frame and back -/

@[simp] theorem loByte_toNat (b : Byte) : loByte b.toNat = b := by
  simp [loByte]

@[simp] theorem loByte_unle16 (b0 b1 : Byte) : loByte (unle16 b0 b1).toNat = b0 := by
  apply BitVec.eq_of_toNat_eq
  simp only [loByte, unle16_toNat, BitVec.toNat_ofNat]
  omega

@[simp] theorem hiByte_unle16 (b0 b1 : Byte) : hiByte (unle16 b0 b1).toNat = b1 := by
  apply BitVec.eq_of_toNat_eq
  simp only [hiByte, unle16_toNat, BitVec.toNat_ofNat]
  omega

theorem or_longBit {b : Byte} (h : b.getLsbD 7 = true) : b ||| longBit = b := by
  refine BitVec.eq_of_getLsbD_eq fun i hi => ?_
  interval_cases i <;> simp [longBit, h]

/-- A right checksum makes a header the sealed one of its other fields (40_checksum.md R93). -/
theorem sealHeader_of_csumOk {h : Header} (hsum : csumOk h = true) :
    sealHeader h.addr h.cmd h.flags h.x7 h.x8 h.x9 h.x10 = h := by
  have hk : headerSum h = h.sum := beq_iff_eq.1 hsum
  cases h
  simpa [sealHeader, headerSum] using hk

/-- The payload the host copies is the decoded one. -/
theorem byte_tpay_copyToTx (s : State) (k : Nat) (h : k < s.rxPlen.toNat) : (copyToTx s).byte .tpay k = s.byte .rpay k := by
  have hk : k < (s.bytes .rpay 0 s.rxPlen.toNat).length := by simpa using h
  calc (copyToTx s).byte .tpay k
    _ = (s.store .tpay 0 (s.bytes .rpay 0 s.rxPlen.toNat)).byte .tpay k := byte_congr rfl rfl k
    _ = (s.bytes .rpay 0 s.rxPlen.toNat)[k] := byte_store_zero s .tpay _ k hk
    _ = s.byte .rpay k := by simp

/-- Every decoded Frame is within ENCODE's limits (41_encode.md R103). -/
theorem frameInvalid_copyToTx {s : State} (h : s.rxPlen.toNat ≤ s.cfg.pbufSize) : frameInvalid (copyToTx s) = false := by
  have hcfg : (copyToTx s).cfg = s.cfg := store_cfg s .tpay 0 (s.bytes .rpay 0 s.rxPlen.toNat)
  exact frameInvalid_of_inRange (Nat.le_of_lt_succ s.rxAddr.isLt) (Nat.le_of_lt_succ s.rxCmd.isLt)
    (Nat.le_of_lt_succ s.rxFlags.isLt) (Nat.le_of_lt_succ s.rxPlen.isLt) (fun _ => Nat.le_of_lt_succ s.rxPoff.isLt)
    (hcfg ▸ h)

/-- A decoded Frame is encoded in the format it was decoded from. -/
theorem longMode_copyToTx_decoded (s : State) : longMode (copyToTx (decoded s)) = (rxHeader s).long := by
  have hctrl : (copyToTx (decoded s)).txCtrl = (rxHeader s).long := rxInfo_decoded s
  cases hl : (rxHeader s).long
  · obtain ⟨hplen, -⟩ := decoded_short hl
    exact longMode_eq_false hplen.le (hctrl.trans hl)
  · exact (longMode_iff _).2 (.inr (hctrl.trans hl))

/-- Bytes 4 to 11 of the packet encoded from a decoded Frame are those decoded (42_decode.md R135). -/
theorem encodedHeader_copyToTx_decoded {s : State} (hsum : csumOk (rxHeader s) = true) :
    encodedHeader (copyToTx (decoded s)) = rxHeader s := by
  obtain ⟨h4, h5, h6⟩ := decoded_fields s
  have haddr : loByte (copyToTx (decoded s)).txAddr = (rxHeader s).addr := (loByte_toNat _).trans h4
  have hcmd : loByte (copyToTx (decoded s)).txCmd = (rxHeader s).cmd := (loByte_toNat _).trans h5
  have hflags : loByte (copyToTx (decoded s)).txFlags = (rxHeader s).flags := (loByte_toNat _).trans h6
  have hmode := longMode_copyToTx_decoded s
  rw [← sealHeader_of_csumOk hsum]
  cases hl : (rxHeader s).long
  · rw [hl] at hmode
    obtain ⟨hplen, hpay, -, -⟩ := decoded_short hl
    have hpayload (k : Nat) (hk : k < 4) : shortPayload (copyToTx (decoded s)) k = s.byte .rxbuf (7 + k) := by
      have hk' : k < (decoded s).rxPlen.toNat := hk.trans_eq hplen.symm
      exact (if_pos hk').trans ((byte_tpay_copyToTx _ k hk').trans (hpay k hk))
    rw [encodedHeader_short hmode, shortHeader, finalFlags_short hmode, haddr, hcmd, hflags, hpayload 0 (by omega),
      hpayload 1 (by omega), hpayload 2 (by omega), hpayload 3 (by omega)]
    rfl
  · rw [hl] at hmode
    obtain ⟨hplen, -, hinfo, hoff⟩ := decoded_long hl
    have hlength : (copyToTx (decoded s)).txPlen = (rxHeader s).length.toNat := hplen
    have hoffset : offsetField (copyToTx (decoded s)) = (rxHeader s).offset.toNat :=
      (if_pos hinfo).trans (congrArg BitVec.toNat hoff)
    rw [encodedHeader_long hmode, longHeader, finalFlags_long hmode, haddr, hcmd, hflags, or_longBit hl, hlength, hoffset,
      Header.length, Header.offset, loByte_unle16, hiByte_unle16, loByte_unle16, hiByte_unle16]

theorem encoded_byte_front_copyToTx_decoded {s : State} (hsum : csumOk (rxHeader s) = true) (k : Nat) (hk4 : 4 ≤ k)
    (hk : k < 12) : (encoded (copyToTx (decoded s))).byte .txbuf k = s.byte .rxbuf k := by
  obtain ⟨h4, h5, h6, h7, h8, h9, h10, h11⟩ := encoded_header (copyToTx (decoded s))
  rw [encodedHeader_copyToTx_decoded hsum] at h4 h5 h6 h7 h8 h9 h10 h11
  interval_cases k <;> assumption

theorem encoded_byte_body_copyToTx_decoded {s : State} (hl : (rxHeader s).long = true) (k : Nat)
    (hk : k < (decoded s).rxPlen.toNat) :
    (encoded (copyToTx (decoded s))).byte .txbuf (12 + k) = s.byte .rxbuf (12 + k) := by
  obtain ⟨hplen, hpay, -, -⟩ := decoded_long hl
  calc (encoded (copyToTx (decoded s))).byte .txbuf (12 + k)
    _ = (copyToTx (decoded s)).byte .tpay k := encoded_byte_body ((longMode_copyToTx_decoded s).trans hl) k hk
    _ = (decoded s).byte .rpay k := byte_tpay_copyToTx _ k hk
    _ = s.byte .rxbuf (12 + k) := hpay k (hk.trans_eq hplen)

/-- Settles O45: the Frame is re-encoded in its own format, so header and body come back. -/
theorem reencodingGivesThePacketBack : Obligations.ReencodingGivesThePacketBack := by
  unfold Obligations.ReencodingGivesThePacketBack
  intro s t _ h herr
  obtain ⟨hframe, rfl⟩ := exec_decode_none (.inl rfl) h herr
  have hv : frameInvalid (copyToTx (decoded s)) = false :=
    frameInvalid_copyToTx (by simpa [toNat_rxPlen_decoded] using hframe.inRpay)
  have hlen : (encoded (copyToTx (decoded s))).txLen.toNat
      = if (rxHeader s).long then 12 + (decoded s).rxPlen.toNat else 12 := by
    rw [encoded_txLen hv, longMode_copyToTx_decoded]
    rfl
  obtain ⟨m0, m1, m2, m3⟩ := encoded_marker (copyToTx (decoded s))
  refine ⟨_, exec_encode_valid hv, rfl, by rw [rxInfo_decoded, hlen], ?_, fun k hk4 hk => ?_⟩
  · rw [← m0, ← m1, ← m2, ← m3]
    rfl
  · rcases Nat.lt_or_ge k 12 with hk12 | hk12
    · exact encoded_byte_front_copyToTx_decoded (hframe.sum rfl) k hk4 hk12
    · obtain ⟨j, rfl⟩ := Nat.exists_eq_add_of_le hk12
      rw [hlen] at hk
      cases hl : (rxHeader s).long
      · simp [hl] at hk
      · exact encoded_byte_body_copyToTx_decoded hl j (by simpa [hl] using hk)

end Sys2Proof.Machine
end

section
/-! PACK (43_pack_rgbw.md R140 to R143): the bytes of the colour, and what a successful and a failed PACK leave. -/

namespace Sys2Proof.Machine

/-- W is the most significant byte of `COLOR` and R the least (10_state.md R18). -/
theorem rgbwBytes_eq {color : BitVec 32} {w b g r : Byte}
    (h : color.toNat = 2 ^ 24 * w.toNat + 2 ^ 16 * b.toNat + 2 ^ 8 * g.toNat + r.toNat) :
    rgbwBytes color = [w, b, g, r] := by
  have hbyte (i : Nat) (x : Byte) (hx : color.toNat / 2 ^ i % 256 = x.toNat) : color.extractLsb' i 8 = x :=
    BitVec.eq_of_toNat_eq (by simpa only [BitVec.extractLsb'_toNat, Nat.shiftRight_eq_div_pow] using hx)
  have hw := w.isLt
  have hb := b.isLt
  have hg := g.isLt
  have hr := r.isLt
  rw [rgbwBytes, hbyte 24 w (by omega), hbyte 16 b (by omega), hbyte 8 g (by omega), hbyte 0 r (by omega)]

theorem packed_frame (s : State) :
    packed s = { s with tpay := (packed s).tpay, packPtr := s.packPtr + 4, err := .none } := rfl

theorem packed_byte (s : State) (k : Nat) (h : k < (rgbwBytes s.color).length) :
    (packed s).byte .tpay (s.packPtr + k) = (rgbwBytes s.color)[k] :=
  (byte_congr rfl rfl _).trans (byte_store_inside s .tpay s.packPtr _ k h)

theorem sameOutside_packed (s : State) : SameOutside s (packed s) .tpay s.packPtr 4 :=
  fun a ha => (byte_congr rfl rfl a).trans (byte_store_outside s .tpay s.packPtr (rgbwBytes s.color) a ha)

/-- A failed PACK clears neither VALID bit (60_exceptions.md R165). -/
theorem raise_pack (e : Err) (s : State) : raise .pack e s = { s with err := e } := by
  simp [raise, clearsTxValid, clearsRxValid]

theorem exec_pack_fits {s : State} (h : s.packPtr + 4 ≤ s.cfg.pbufSize) : exec .pack s = .next (packed s) :=
  execPack_fits h

theorem exec_pack_outside {s : State} (h : s.cfg.pbufSize < s.packPtr + 4) :
    exec .pack s = .next { s with err := .invalidFrame } :=
  (execPack_outside h).trans (congrArg _ (raise_pack .invalidFrame s))

/-- Settles O38: a PACK that fits leaves `packed s`, whose four new bytes are those of `COLOR`. -/
theorem packStoresThePixel : Obligations.PackStoresThePixel := by
  unfold Obligations.PackStoresThePixel
  refine fun s => ⟨fun hfits w b g r hcolor => ?_, exec_pack_outside⟩
  have hbytes := packed_byte s
  rw [rgbwBytes_eq hcolor] at hbytes
  exact ⟨packed s, exec_pack_fits hfits, packed_frame s, hbytes 0 (by simp), hbytes 1 (by simp), hbytes 2 (by simp),
    hbytes 3 (by simp), sameOutside_packed s⟩

end Sys2Proof.Machine
end

section
/-! What a failed operation leaves (60_exceptions.md R165): one lemma for each row of the table. -/

namespace Sys2Proof.Machine

theorem exec_encode_failed {s t : State} (h : exec .encode s = .next t) (herr : t.err ≠ .none) :
    t = { s with err := .invalidFrame, txValid := false } := by
  cases hv : frameInvalid s
  · cases (exec_encode_valid hv).symm.trans h
    exact absurd rfl herr
  · cases (exec_encode_invalid hv).symm.trans h
    rfl

theorem exec_pack_failed {s t : State} (h : exec .pack s = .next t) (herr : t.err ≠ .none) :
    t = { s with err := .invalidFrame } := by
  rcases Nat.lt_or_ge s.cfg.pbufSize (s.packPtr + 4) with hout | hfits
  · cases (exec_pack_outside hout).symm.trans h
    rfl
  · cases (exec_pack_fits hfits).symm.trans h
    exact absurd rfl herr

section
variable {i : Instr} {s t : State} (hi : i = .decode ∨ i = .decodeNV)
include hi

theorem exec_decode_failed (h : exec i s = .next t) (herr : t.err ≠ .none) (hn : s.rxLen ≤ s.cfg.rbufSize) :
    (t.err = .truncatedFrame ∨ t.err = .checksumMismatch) ∧ t = { s with err := t.err, rxValid := false } := by
  rcases exec_decode_next hi h with ⟨hlong, -⟩ | ⟨-, e, he, rfl⟩ | ⟨-, rfl⟩
  · exact absurd hn (Nat.not_le.2 hlong)
  · exact ⟨he.imp_right And.right, rfl⟩
  · exact absurd (err_decoded s) herr

theorem exec_decode_next_of_tooLong (h : exec i s = .next t) (hn : s.cfg.rbufSize < s.rxLen) :
    t = { s with err := .illegalOp } := by
  cases (exec_decode_tooLong hi hn).symm.trans h
  rfl

end

/-- The low byte of a written value is what decodes (30_encoding.md R76). -/
theorem decodeOp_loByte_reserved {v : Nat} (h : v % 256 ∉ [0x01, 0x02, 0x12, 0x03]) :
    decodeOp (loByte v) = .error (.reservedOp (loByte v)) := by
  simp only [List.mem_cons, List.not_mem_nil, or_false, not_or] at h
  obtain ⟨h1, h2, h12, h3⟩ := h
  have hne (b : Byte) (hb : v % 256 ≠ b.toNat) : loByte v ≠ b := mt (loByte_eq_iff v b).1 hb
  exact decodeOp_reserved (hne 0x01 h1) (hne 0x02 h2) (hne 0x03 h3) (hne 0x12 h12)

/-- Settles O48: a case for each operation, and the step of a reserved code. -/
theorem failureChangesOnlyStatus : Obligations.FailureChangesOnlyStatus := by
  unfold Obligations.FailureChangesOnlyStatus
  refine ⟨fun s t i _ h herr => ⟨?_, ?_, ?_, ?_⟩, fun s v rest he hf hv => ?_⟩
  · rintro rfl
    exact exec_encode_failed h herr
  · rintro rfl
    exact exec_pack_failed h herr
  · exact fun hi => exec_decode_failed hi h herr
  · exact fun hi => exec_decode_next_of_tooLong hi h
  · exact step_reservedOp he hf (decodeOp_loByte_reserved hv)

end Sys2Proof.Machine
end

section
/-! The two field bytes (44_wire_fields.md R151 to R156): a flags byte and a command byte taken apart and put together again. -/

namespace Sys2Proof.Machine

/-! ### The flags byte -/

theorem getLsbD_flagsByte (long : Bool) (unnamed : BitVec 6) (rep : Bool) (i : Nat) :
    (flagsByte long unnamed rep).getLsbD i
      = if i < 1 then (BitVec.ofBool rep).getLsbD i
        else if i - 1 < 6 then unnamed.getLsbD (i - 1) else (BitVec.ofBool long).getLsbD (i - 1 - 6) := by
  rw [← BitVec.getLsbD_append, ← BitVec.getLsbD_append]
  rfl

theorem getLsbD_seven_flagsByte (long : Bool) (unnamed : BitVec 6) (rep : Bool) :
    (flagsByte long unnamed rep).getLsbD 7 = long := by
  simp [getLsbD_flagsByte, -BitVec.getLsbD_eq_getElem]

@[simp] theorem extractLsb_flagsByte (long : Bool) (unnamed : BitVec 6) (rep : Bool) :
    (flagsByte long unnamed rep).extractLsb' 1 6 = unnamed := by
  refine BitVec.eq_of_getLsbD_eq fun i hi => ?_
  simp [getLsbD_flagsByte, hi]

theorem getLsbD_zero_flagsByte (long : Bool) (unnamed : BitVec 6) (rep : Bool) :
    (flagsByte long unnamed rep).getLsbD 0 = rep := by
  simp [getLsbD_flagsByte, -BitVec.getLsbD_eq_getElem]

/-- Bit 7, bits 6:1 and bit 0 make up the whole byte. -/
theorem flagsByte_fields (b : Byte) : flagsByte (b.getLsbD 7) (b.extractLsb' 1 6) (b.getLsbD 0) = b := by
  refine BitVec.eq_of_getLsbD_eq fun i hi => ?_
  rw [getLsbD_flagsByte]
  interval_cases i <;> simp

/-! ### The command byte -/

/-- The base and the fade bit of a command byte (44_wire_fields.md R151). -/
theorem cmdByte_fields (b : Byte) : cmdByte (b &&& ~~~fadeBit) (b.getLsbD 4) = b := by
  refine BitVec.eq_of_getLsbD_eq fun i hi => ?_
  interval_cases i <;> cases h : b.getLsbD 4 <;> simp [cmdByte, fadeBit]

theorem getLsbD_fadeByte (rest : BitVec 7) (i : Nat) :
    (fadeByte rest).getLsbD i
      = if i < 4 then (rest.extractLsb' 0 4).getLsbD i
        else if i - 4 < 1 then (1#1).getLsbD (i - 4) else (rest.extractLsb' 4 3).getLsbD (i - 4 - 1) := by
  rw [← BitVec.getLsbD_append, ← BitVec.getLsbD_append]
  rfl

theorem getLsbD_cmdRest (b : Byte) (i : Nat) :
    (cmdRest b).getLsbD i = if i < 4 then (b.extractLsb' 0 4).getLsbD i else (b.extractLsb' 5 3).getLsbD (i - 4) := by
  rw [← BitVec.getLsbD_append]
  rfl

theorem getLsbD_four_fadeByte (rest : BitVec 7) : (fadeByte rest).getLsbD 4 = true := by
  simp [getLsbD_fadeByte, -BitVec.getLsbD_eq_getElem]

@[simp] theorem cmdRest_fadeByte (rest : BitVec 7) : cmdRest (fadeByte rest) = rest := by
  refine BitVec.eq_of_getLsbD_eq fun i hi => ?_
  rw [getLsbD_cmdRest]
  interval_cases i <;> simp [getLsbD_fadeByte, -BitVec.getLsbD_eq_getElem]

/-- Bit 4 and the other seven bits make up the whole byte (44_wire_fields.md R155). -/
theorem fadeByte_cmdRest {b : Byte} (h : b.getLsbD 4 = true) : fadeByte (cmdRest b) = b := by
  refine BitVec.eq_of_getLsbD_eq fun i hi => ?_
  rw [getLsbD_fadeByte]
  interval_cases i <;> simp [getLsbD_cmdRest, h, -BitVec.getLsbD_eq_getElem]

/-- The other seven bits do not see the fade bit. -/
@[simp] theorem cmdRest_clear_fadeBit (b : Byte) : cmdRest (b &&& ~~~fadeBit) = cmdRest b := by
  refine BitVec.eq_of_getLsbD_eq fun i hi => ?_
  rw [getLsbD_cmdRest, getLsbD_cmdRest]
  interval_cases i <;> simp [fadeBit]

end Sys2Proof.Machine
end

section
/-! The decoder and the encoder are inverse (30_encoding.md R62 to R66, R75, R76; 44_wire_fields.md R151 to R156): for each kind of
row, decoding its bytes gives it back, and bytes that decode are the row's. -/

namespace Sys2Proof.Machine

/-! ### Register numbers -/

/-- The unused numbers (10_state.md R14). -/
theorem ofNum_unused {n : Nat} (h : 0x0B ≤ n ∧ n ≤ 0x0F ∨ 0x17 ≤ n) : Reg.ofNum n = none := by
  unfold Reg.ofNum
  repeat rw [if_neg (by omega)]

/-- The register table of 10_state.md R14, read in both directions. -/
theorem ofNum_eq_some_iff (n : Nat) (r : Reg) : Reg.ofNum n = some r ↔ r.num = n := by
  constructor
  · intro h
    rcases Nat.lt_or_ge n 0x17 with hn | hn
    · have htable : ∀ m < 0x17, (Reg.ofNum m).all (·.num == m) := by decide
      simpa [h] using htable n hn
    · rw [ofNum_unused (.inr hn)] at h
      cases h
  · rintro rfl
    cases r <;> rfl

/-- Settles O5: the equivalence for one number and one register. -/
theorem registerNumbersAgree : Obligations.RegisterNumbersAgree := by
  unfold Obligations.RegisterNumbersAgree
  exact ofNum_eq_some_iff

/-! ### Command bytes -/

theorem decodeCmd_noop (fade : Bool) : decodeCmd (cmdByte 0x00 fade) = .ok (.cmdNoop fade) := by
  cases fade <;> rfl

theorem decodeCmd_patternSimple (fade : Bool) : decodeCmd (cmdByte 0x01 fade) = .ok (.cmdPatternSimple fade) := by
  cases fade <;> rfl

theorem decodeCmd_rotate (fade : Bool) : decodeCmd (cmdByte 0x02 fade) = .ok (.cmdRotate fade) := by
  cases fade <;> rfl

theorem restIsNamed_iff (rest : BitVec 7) : restIsNamed rest = true ↔ rest = 0 ∨ rest = 1 ∨ rest = 2 := by
  simp [restIsNamed, ← BitVec.toNat_inj]
  omega

/-- Clearing the fade bit of a byte that spells no named command leaves no byte that spells one. -/
theorem clear_fadeBit_ne {b base : Byte} (h : restIsNamed (cmdRest b) = false) (hbase : restIsNamed (cmdRest base) = true) :
    b &&& ~~~fadeBit ≠ base := by
  rintro rfl
  rw [cmdRest_clear_fadeBit, h] at hbase
  cases hbase

theorem decodeCmd_fadeByte {rest : BitVec 7} (h : restIsNamed rest = false) :
    decodeCmd (fadeByte rest) = .ok (.cmdFade rest) := by
  have hne (base : Byte) (hbase : restIsNamed (cmdRest base) = true) : fadeByte rest &&& ~~~fadeBit ≠ base :=
    clear_fadeBit_ne (by rwa [cmdRest_fadeByte]) hbase
  rw [decodeCmd, if_neg (hne 0x00 rfl), if_neg (hne 0x01 rfl), if_neg (hne 0x02 rfl),
    if_pos (getLsbD_four_fadeByte rest), cmdRest_fadeByte]

/-- A byte with the fade bit whose base is no named command (44_wire_fields.md R155). -/
theorem restIsNamed_cmdRest {b : Byte} (hfade : b.getLsbD 4 = true) (h0 : b &&& ~~~fadeBit ≠ 0x00)
    (h1 : b &&& ~~~fadeBit ≠ 0x01) (h2 : b &&& ~~~fadeBit ≠ 0x02) : restIsNamed (cmdRest b) = false := by
  rw [← Bool.not_eq_true, restIsNamed_iff]
  rw [← fadeByte_cmdRest hfade] at h0 h1 h2
  rintro (h | h | h)
  · exact h0 (by rw [h]; rfl)
  · exact h1 (by rw [h]; rfl)
  · exact h2 (by rw [h]; rfl)

theorem encode_of_decodeCmd {b : Byte} {i : Instr} (h : decodeCmd b = .ok i) :
    i.wellFormed = true ∧ encode i = .wr 0x03 b.toNat := by
  have hbyte := cmdByte_fields b
  have hwr {x : Byte} (hx : x = b) : Event.wr 0x03 x.toNat = .wr 0x03 b.toNat := by rw [hx]
  unfold decodeCmd at h
  split_ifs at h with h0 h1 h2 hfade <;> cases h
  · rw [h0] at hbyte
    exact ⟨rfl, hwr hbyte⟩
  · rw [h1] at hbyte
    exact ⟨rfl, hwr hbyte⟩
  · rw [h2] at hbyte
    exact ⟨rfl, hwr hbyte⟩
  · exact ⟨by rw [Instr.wellFormed, restIsNamed_cmdRest hfade h0 h1 h2, Bool.not_false],
      hwr (fadeByte_cmdRest hfade)⟩

/-! ### Flags bytes and operation codes -/

theorem decodeFlags_flagsByte (long : Bool) (unnamed : BitVec 6) (rep : Bool) :
    decodeFlags (flagsByte long unnamed rep) = .flags long unnamed rep := by
  rw [decodeFlags, getLsbD_seven_flagsByte, extractLsb_flagsByte, getLsbD_zero_flagsByte]

theorem encode_of_decodeOp {b : Byte} {i : Instr} (h : decodeOp b = .ok i) :
    i.wellFormed = true ∧ encode i = .wr 0x00 b.toNat := by
  rcases (decodeOp_eq_ok_iff b i).1 h with ⟨rfl, rfl⟩ | ⟨rfl, rfl⟩ | ⟨rfl, rfl⟩ | ⟨rfl, rfl⟩ <;> exact ⟨rfl, rfl⟩

/-! ### Packets -/

/-- A 16-bit field is read back from its two bytes (00_scope.md R7). -/
theorem toNat_unle16_le16 {v : Nat} (h : v ≤ 65535) : (unle16 (loByte v) (hiByte v)).toNat = v := by
  rw [unle16_toNat, loByte_add_hiByte h]

theorem unle16_le16 (v : BitVec 16) : unle16 (loByte v.toNat) (hiByte v.toNat) = v :=
  BitVec.eq_of_toNat_eq (toNat_unle16_le16 (Nat.le_of_lt_succ v.isLt))

theorem decodePacket_pktABytes (a c : Byte) (u : BitVec 6) (r : Bool) (p0 p1 p2 p3 k : Byte) :
    decodePacket (pktABytes a c u r p0 p1 p2 p3 k) = .ok (.pktA a c u r p0 p1 p2 p3 k) := by
  simp only [pktABytes, marker, List.cons_append, List.nil_append, decodePacket, getLsbD_seven_flagsByte,
    extractLsb_flagsByte, getLsbD_zero_flagsByte]
  rfl

theorem decodePacket_pktBBytes (a c : Byte) (u : BitVec 6) (r : Bool) (off : BitVec 16) (k : Byte) {body : List Byte}
    (h : body.length ≤ 65535) : decodePacket (pktBBytes a c u r off k body) = .ok (.pktB a c u r off k body) := by
  simp only [pktBBytes, marker, le16, List.cons_append, List.nil_append, decodePacket, getLsbD_seven_flagsByte,
    extractLsb_flagsByte, getLsbD_zero_flagsByte, toNat_unle16_le16 h, unle16_le16, if_true]
  rfl

/-- Bytes that decode are a packet with the start marker, at its exact length (30_encoding.md R61, R66). -/
theorem encode_of_decodePacket {bs : List Byte} {i : Instr} (h : decodePacket bs = .ok i) :
    i.wellFormed = true ∧ encode i = .receive bs := by
  unfold decodePacket at h
  split at h
  · next m0 m1 m2 m3 a c f x7 x8 x9 x10 k body =>
    split_ifs at h with hm hlong hlen hbody <;> cases h
    all_goals
      have hmarker : marker = [m0, m1, m2, m3] := (not_not.1 hm).symm
      have hflags := flagsByte_fields f
    · rw [hlong] at hflags
      have hmax := (unle16 x7 x8).isLt
      refine ⟨by simp only [Instr.wellFormed, decide_eq_true_eq]; omega, ?_⟩
      simp [encode, pktBBytes, hmarker, hflags, hlen, le16, -BitVec.getLsbD_eq_getElem]
    · rw [Bool.eq_false_of_not_eq_true hlong] at hflags
      subst hbody
      exact ⟨rfl, by simp [encode, pktABytes, hmarker, hflags, -BitVec.getLsbD_eq_getElem]⟩
  · cases h

/-! ### Events -/

/-- The writes that carry a row of the table (10_state.md R14; 30_encoding.md R76). -/
theorem decodeEvent_wr {n v : Nat} {i : Instr} (h : decodeEvent (.wr n v) = .ok i) :
    (n = 0x00 ∧ decodeOp (loByte v) = .ok i) ∨ (n = 0x03 ∧ v ≤ 255 ∧ decodeCmd (loByte v) = .ok i)
      ∨ (n = 0x04 ∧ v ≤ 255 ∧ i = decodeFlags (loByte v)) := by
  simp only [decodeEvent] at h
  split at h
  · next hn => exact .inl ⟨((ofNum_eq_some_iff n .op).1 hn).symm, h⟩
  · next hn =>
    split_ifs at h with hv
    exact .inr (.inl ⟨((ofNum_eq_some_iff n .txCmd).1 hn).symm, hv, h⟩)
  · next hn =>
    split_ifs at h with hv
    cases h
    exact .inr (.inr ⟨((ofNum_eq_some_iff n .txFlags).1 hn).symm, hv, rfl⟩)
  · cases h

theorem decodeEvent_txCmd (b : Byte) : decodeEvent (.wr Reg.txCmd.num b.toNat) = decodeCmd b :=
  (if_pos (Nat.le_of_lt_succ b.isLt)).trans (congrArg decodeCmd (loByte_toNat b))

theorem decodeEvent_txFlags (b : Byte) : decodeEvent (.wr Reg.txFlags.num b.toNat) = .ok (decodeFlags b) :=
  (if_pos (Nat.le_of_lt_succ b.isLt)).trans (congrArg (Except.ok ∘ decodeFlags) (loByte_toNat b))

/-- Settles O1: a case for each row, by the lemma that its bytes decode to it. -/
theorem decodeOfEncodeIsTheInstruction : Obligations.DecodeOfEncodeIsTheInstruction := by
  unfold Obligations.DecodeOfEncodeIsTheInstruction
  intro i hwf
  cases i with
  | encode => rfl
  | decode => rfl
  | decodeNV => rfl
  | pack => rfl
  | pktA a c u r p0 p1 p2 p3 k => exact decodePacket_pktABytes a c u r p0 p1 p2 p3 k
  | pktB a c u r off k body => exact decodePacket_pktBBytes a c u r off k (of_decide_eq_true hwf)
  | cmdNoop fade => exact (decodeEvent_txCmd _).trans (decodeCmd_noop fade)
  | cmdPatternSimple fade => exact (decodeEvent_txCmd _).trans (decodeCmd_patternSimple fade)
  | cmdRotate fade => exact (decodeEvent_txCmd _).trans (decodeCmd_rotate fade)
  | cmdFade rest => exact (decodeEvent_txCmd _).trans (decodeCmd_fadeByte (by simpa [Instr.wellFormed] using hwf))
  | flags long u r => exact (decodeEvent_txFlags _).trans (congrArg Except.ok (decodeFlags_flagsByte long u r))

/-- Settles O2: only writes of `OP`, `TX_CMD` and `TX_FLAGS` and received bytes decode, and each is the row's own bytes. -/
theorem encodeOfDecodeIsTheEvent : Obligations.EncodeOfDecodeIsTheEvent := by
  unfold Obligations.EncodeOfDecodeIsTheEvent
  intro e i h
  cases e with
  | wr n v =>
    rcases decodeEvent_wr h with ⟨rfl, hop⟩ | ⟨rfl, hv, hcmd⟩ | ⟨rfl, hv, rfl⟩
    · obtain ⟨hwf, henc⟩ := encode_of_decodeOp hop
      exact ⟨hwf, .inr ⟨v, rfl, henc⟩⟩
    · obtain ⟨hwf, henc⟩ := encode_of_decodeCmd hcmd
      exact ⟨hwf, .inl (by rw [henc, toNat_loByte hv])⟩
    · have henc : encode (decodeFlags (loByte v)) = .wr 0x04 (loByte v).toNat := by
        rw [decodeFlags, encode, flagsByte_fields, Reg.num]
      exact ⟨rfl, .inl (by rw [henc, toNat_loByte hv])⟩
  | receive bs =>
    obtain ⟨hwf, henc⟩ := encode_of_decodePacket h
    exact ⟨hwf, .inl henc⟩
  | rd n => cases h
  | wb sp j b => cases h
  | rb sp j => cases h
  | reset => cases h

/-- Settles O3: the bytes and values are concrete. -/
theorem specWordsDecode : Obligations.SpecWordsDecode := by
  unfold Obligations.SpecWordsDecode
  decide

end Sys2Proof.Machine
end

section
/-! The step (20_memory.md R50, R51; 30_encoding.md R78): a step runs one of the four operations or is the plain host action. The
frame, the parameters and the absence of faults follow from that. -/

namespace Sys2Proof.Machine

/-! ### What a step runs -/

theorem perform_exec {e : Event} {s : State} {i : Instr} (hf : eventFits s.cfg e = true) (hd : decodeEvent e = .ok i) :
    perform e s = exec i s := by
  simp only [perform, hf, hd, if_true]

/-- Settles O9: the oldest event is performed, and a decoded one is executed. -/
theorem stepRunsTheDecodedInstruction : Obligations.StepRunsTheDecodedInstruction := by
  unfold Obligations.StepRunsTheDecodedInstruction
  exact fun s e rest i he hf hd => (step_cons he).trans (perform_exec hf hd)

theorem step_idle {s : State} (h : s.events = []) : step s = .next s := by
  simp only [step, runNext, fetch, h]

/-- Settles O10: an event that does not decode is performed plainly, and without one nothing is fetched. -/
theorem stepOfOtherEvents : Obligations.StepOfOtherEvents := by
  unfold Obligations.StepOfOtherEvents
  exact ⟨fun s e rest r he hf hd => (step_cons he).trans (perform_plain hf hd), fun s => step_idle⟩

/-- A row that is no operation does what the event that carries it does (log entry 7). -/
theorem exec_eq_plainEvent_encode {i : Instr} (h : ∀ v, encode i ≠ .wr 0x00 v) (s : State) :
    exec i s = plainEvent (encode i) s := by
  cases i with
  | encode => exact absurd rfl (h 0x01)
  | decode => exact absurd rfl (h 0x02)
  | decodeNV => exact absurd rfl (h 0x12)
  | pack => exact absurd rfl (h 0x03)
  | pktA | pktB | cmdNoop | cmdPatternSimple | cmdRotate | cmdFade | flags => rfl

/-- Settles O12: the event is the encoding of the row, so the row's execution is the event's. -/
theorem dataRowsAreHostActions : Obligations.DataRowsAreHostActions := by
  unfold Obligations.DataRowsAreHostActions
  intro s e i hd hop
  obtain ⟨-, rfl | ⟨v, rfl, -⟩⟩ := encodeOfDecodeIsTheEvent e i hd
  · exact exec_eq_plainEvent_encode hop s
  · exact absurd rfl (hop v)

/-- Every event but a write of `OP` is the plain host action, whether or not it carries a row. -/
theorem perform_of_not_op {e : Event} {s : State} (hf : eventFits s.cfg e = true) (hop : ∀ v, e ≠ .wr 0x00 v) :
    perform e s = plainEvent e s := by
  cases hd : decodeEvent e with
  | ok i => exact (perform_exec hf hd).trans (dataRowsAreHostActions s e i hd hop)
  | error r => exact perform_plain hf hd

/-- The step of every event that is no write of `OP`. -/
theorem step_of_not_op {s : State} {e : Event} {rest : List Event} (he : s.events = e :: rest)
    (hf : eventFits s.cfg e = true) (hop : ∀ v, e ≠ .wr 0x00 v) : step s = plainEvent e { s with events := rest } :=
  (step_cons he).trans (perform_of_not_op (s := { s with events := rest }) hf hop)

/-- A write of `OP` runs the operation of its low byte or raises IllegalOp (30_encoding.md R76, R77). -/
theorem perform_op {v : Nat} {s : State} (hf : valueFits s.cfg 0x00 v = true) :
    (∃ i, (i = .encode ∨ i = .pack ∨ i = .decode ∨ i = .decodeNV) ∧ perform (.wr 0x00 v) s = exec i s)
      ∨ perform (.wr 0x00 v) s = .next (raise .reserved .illegalOp s) := by
  cases hd : decodeOp (loByte v) with
  | ok i =>
    have hi : i = .encode ∨ i = .pack ∨ i = .decode ∨ i = .decodeNV := by
      rcases decodeOp_ok hd with rfl | rfl | rfl | rfl <;> simp
    exact .inl ⟨i, hi, perform_exec hf hd⟩
  | error r => exact .inr (perform_plain hf hd)

/-- What is performed: one of the four operations, a reserved code, or a plain host action. -/
theorem perform_cases {e : Event} {s : State} (hf : eventFits s.cfg e = true) :
    (∃ i, (i = .encode ∨ i = .pack ∨ i = .decode ∨ i = .decodeNV) ∧ perform e s = exec i s)
      ∨ perform e s = .next (raise .reserved .illegalOp s)
      ∨ ((∀ v, e ≠ .wr 0x00 v) ∧ perform e s = plainEvent e s) := by
  by_cases hop : ∀ v, e ≠ .wr 0x00 v
  · exact .inr (.inr ⟨hop, perform_of_not_op hf hop⟩)
  · obtain ⟨v, hv⟩ := not_forall.1 hop
    obtain rfl := not_not.1 hv
    exact (perform_op hf).imp_right .inl

/-- Every way a step answers a next state. -/
theorem step_next_cases {s t : State} (h : step s = .next t) :
    t = s ∨ ∃ e rest, s.events = e :: rest ∧ eventFits s.cfg e = true ∧
      ((∃ i, (i = .encode ∨ i = .pack ∨ i = .decode ∨ i = .decodeNV) ∧ exec i { s with events := rest } = .next t)
        ∨ t = raise .reserved .illegalOp { s with events := rest }
        ∨ (∀ v, e ≠ .wr 0x00 v) ∧ plainEvent e { s with events := rest } = .next t) := by
  rcases step_next h with ⟨-, rfl⟩ | ⟨e, rest, he, hf, -⟩
  · exact .inl rfl
  · rw [step_cons he] at h
    refine .inr ⟨e, rest, he, hf, ?_⟩
    rcases perform_cases (s := { s with events := rest }) hf with ⟨i, hi, hp⟩ | hp | ⟨hop, hp⟩ <;> rw [hp] at h
    · exact .inl ⟨i, hi, h⟩
    · cases h
      exact .inr (.inl rfl)
    · exact .inr (.inr ⟨hop, h⟩)

/-! ### Words of the table -/

/-- A byte fits every register: REGW is at least 17 (00_scope.md R6). -/
theorem valueFits_of_lt {cfg : Config} (hc : cfg.ok) (n : Nat) {v : Nat} (h : v < 2 ^ 17) : valueFits cfg n v = true := by
  obtain ⟨hw, -⟩ := hc
  have hpow : 2 ^ 17 ≤ 2 ^ cfg.regw := Nat.pow_le_pow_right (by omega) hw
  simp [valueFits, h.trans_le hpow]

theorem eventFits_byteEvent {cfg : Config} (hc : cfg.ok) (b : Byte) : eventFits cfg (byteEvent b) = true := by
  have hfits (n : Nat) : valueFits cfg n b.toNat = true := valueFits_of_lt hc n (b.isLt.trans (by decide))
  unfold byteEvent
  split
  · exact hfits _
  · split <;> exact hfits _

theorem eventFits_tableEvent {cfg : Config} (hc : cfg.ok) (nbits w : Nat) : eventFits cfg (tableEvent nbits w) = true := by
  unfold tableEvent
  split
  · exact eventFits_byteEvent hc _
  · rfl

theorem decodeTableWord_eq_some {nbits w : Nat} {i : Instr} (h : decodeTableWord nbits w = some i) :
    decodeEvent (tableEvent nbits w) = .ok i := by
  unfold decodeTableWord at h
  split at h
  · next hd =>
    cases h
    exact hd
  · cases h

/-- Settles O11: the word's event is the oldest, fits, and decodes to the instruction. -/
theorem fetchWordIsRunNext : Obligations.FetchWordIsRunNext := by
  unfold Obligations.FetchWordIsRunNext
  intro s nbits w i hc hw
  calc step (s.withFetchWord nbits w) = perform (tableEvent nbits w) s := step_cons rfl
    _ = exec i s := perform_exec (eventFits_tableEvent hc nbits w) (decodeTableWord_eq_some hw)

/-! ### Plain host actions -/

/-- A plain write of a register other than `OP` is `writeNum` (10_state.md R13). -/
theorem plainWrite_of_ne {n : Nat} (h : n ≠ 0x00) (v : Nat) (s : State) : plainWrite n v s = writeNum s n v := by
  unfold plainWrite
  split
  · next hn => exact absurd ((ofNum_eq_some_iff n .op).1 hn).symm h
  · rfl

/-- Every way a plain host action answers a next state. -/
theorem plainEvent_next {e : Event} {s t : State} (hop : ∀ v, e ≠ .wr 0x00 v) (h : plainEvent e s = .next t) :
    (∃ n v, e = .wr n v ∧ t = writeNum s n v)
      ∨ (∃ answers, t = { s with replies := answers })
      ∨ (∃ sp i b, hostWritable sp = true ∧ i < spaceSize s.cfg sp ∧ t = s.store sp i [b])
      ∨ (∃ bs, bs.length ≤ s.cfg.rbufSize ∧ t = received s bs)
      ∨ (e = .reset ∧ t = State.afterReset s.cfg (s.epoch + 1) s.events s.replies) := by
  cases e with
  | wr n v =>
    have hn : n ≠ 0x00 := by
      rintro rfl
      exact hop v rfl
    rw [plainEvent, plainWrite_of_ne hn] at h
    cases h
    exact .inl ⟨n, v, rfl, rfl⟩
  | rd n =>
    cases h
    exact .inr (.inl ⟨_, rfl⟩)
  | rb sp i =>
    obtain ⟨-, rfl⟩ := hostRead_next h
    exact .inr (.inl ⟨_, rfl⟩)
  | wb sp i b => exact .inr (.inr (.inl ⟨sp, i, b, hostWrite_next h⟩))
  | receive bs => exact .inr (.inr (.inr (.inl ⟨bs, placeReceived_next h⟩)))
  | reset =>
    cases h
    exact .inr (.inr (.inr (.inr ⟨rfl, rfl⟩)))

/-- A host action leaves the parameters, and `STATUS` unless it is a reset (10_state.md R17, R20). -/
theorem plainEvent_frame {e : Event} {s t : State} (hop : ∀ v, e ≠ .wr 0x00 v) (h : plainEvent e s = .next t) :
    t.cfg = s.cfg ∧ (e ≠ .reset → t.err = s.err ∧ t.txValid = s.txValid ∧ t.rxValid = s.rxValid) := by
  rcases plainEvent_next hop h with ⟨n, v, -, rfl⟩ | ⟨rs, rfl⟩ | ⟨sp, i, b, -, -, rfl⟩ | ⟨bs, -, rfl⟩ | ⟨he, rfl⟩
  · obtain ⟨hcfg, herr, htx, hrx, -⟩ := writeNum_frame s n v
    exact ⟨hcfg, fun _ => ⟨herr, htx, hrx⟩⟩
  · exact ⟨rfl, fun _ => ⟨rfl, rfl, rfl⟩⟩
  · simp
  · exact ⟨rfl, fun _ => ⟨rfl, rfl, rfl⟩⟩
  · exact ⟨rfl, fun hne => absurd he hne⟩

/-- No plain host action raises a fault: what it cannot do is refused. -/
theorem plainEvent_ne_fault (e : Event) (s : State) (f : Fault) : plainEvent e s ≠ .fault f := by
  intro h
  cases e with
  | wr n v => cases h
  | rd n => cases h
  | wb sp i b =>
    simp only [plainEvent, hostWrite] at h
    split_ifs at h
  | rb sp i =>
    simp only [plainEvent, hostRead] at h
    split_ifs at h
  | receive bs =>
    simp only [plainEvent, placeReceived] at h
    split_ifs at h
  | reset => cases h

/-! ### Parameters, `STATUS` and faults -/

theorem exec_operation_cfg {i : Instr} {s t : State} (hi : i = .encode ∨ i = .pack ∨ i = .decode ∨ i = .decodeNV)
    (h : exec i s = .next t) : t.cfg = s.cfg := by
  rcases or_assoc.2 hi with htx | hrx
  · exact ((onTxSide_exec htx).frame h).1
  · exact ((onRxSide_exec hrx).frame h).1

/-- Settles O14: neither an operation nor a host action changes the parameters. -/
theorem stepKeepsParameters : Obligations.StepKeepsParameters := by
  unfold Obligations.StepKeepsParameters
  intro s t h
  rcases step_next_cases h with rfl | ⟨e, rest, -, -, ⟨i, hi, ht⟩ | rfl | ⟨hop, ht⟩⟩
  · rfl
  · exact exec_operation_cfg (s := { s with events := rest }) hi ht
  · rfl
  · exact (plainEvent_frame hop ht).1

/-- Settles O16: an event that is no write of `OP` is a plain host action. -/
theorem statusIsWrittenByOperationsOnly : Obligations.StatusIsWrittenByOperationsOnly := by
  unfold Obligations.StatusIsWrittenByOperationsOnly
  intro s t e rest he hop hreset h
  rcases step_next h with ⟨hnil, -⟩ | ⟨e', rest', he', hf, -⟩
  · cases he.symm.trans hnil
  · cases he.symm.trans he'
    rw [step_of_not_op he hf hop] at h
    obtain ⟨-, hstatus⟩ := plainEvent_frame hop h
    exact hstatus hreset

/-- Each operation ends in a next state, whatever the registers hold (42_decode.md R130, R134). -/
theorem exec_operation_total {i : Instr} {s : State} (hc : s.cfg.ok)
    (hi : i = .encode ∨ i = .pack ∨ i = .decode ∨ i = .decodeNV) : ∃ t, exec i s = .next t := by
  rcases hi with rfl | rfl | hdecode
  · rcases execEncode_cases s with ⟨-, h⟩ | ⟨-, h⟩
    · exact ⟨_, h⟩
    · exact ⟨_, h⟩
  · rcases Nat.lt_or_ge s.cfg.pbufSize (s.packPtr + 4) with hout | hfits
    · exact ⟨_, exec_pack_outside hout⟩
    · exact ⟨_, exec_pack_fits hfits⟩
  · exact exec_decode_total hdecode hc

/-- Settles O15: operations are total, host actions raise no fault, and what does not fit is refused. -/
theorem stepNeverFaults : Obligations.StepNeverFaults := by
  unfold Obligations.StepNeverFaults
  intro s hc f
  cases he : s.events with
  | nil =>
    rw [step_idle he]
    nofun
  | cons e rest =>
    rw [step_cons he]
    cases hf : eventFits s.cfg e with
    | false => simp [perform, hf]
    | true =>
      rcases perform_cases (s := { s with events := rest }) hf with ⟨i, hi, hp⟩ | hp | ⟨-, hp⟩ <;> rw [hp]
      · obtain ⟨t, ht⟩ := exec_operation_total (s := { s with events := rest }) hc hi
        rw [ht]
        nofun
      · nofun
      · exact plainEvent_ne_fault e _ f

end Sys2Proof.Machine
end

section
/-! The invariant of the block, `State.Inv`: it holds after reset, and every operation and host action keeps it. -/

namespace Sys2Proof.Machine

/-! ### States that agree on what the invariant speaks of -/

theorem txPacketOk_congr {s t : State} (h : s.txPacketOk) (hc : t.cfg = s.cfg) (he : t.epoch = s.epoch)
    (hlen : t.txLen = s.txLen) (hm : t.mem .txbuf = s.mem .txbuf) : t.txPacketOk := by
  have hbyte (k : Nat) : t.byte .txbuf k = s.byte .txbuf k := byte_congr hm he k
  constructor
  · rw [hlen]
    exact h.shortest
  · rw [hlen, hc]
    exact h.longest
  · simpa only [State.written, hlen, hm] using h.written
  · rw [bytes_congr hm he]
    exact h.marked
  · simpa only [hbyte] using h.summed

theorem rxFrameOk_congr {s t : State} (h : s.rxFrameOk) (hc : t.cfg = s.cfg) (hinfo : t.rxInfo = s.rxInfo)
    (hlen : t.rxPlen = s.rxPlen) (hm : t.mem .rpay = s.mem .rpay) : t.rxFrameOk := by
  constructor
  · simpa only [hinfo, hlen] using h.shortLength
  · rw [hlen, hc]
    exact h.inRpay
  · simpa only [State.written, hlen, hm] using h.written

/-- `t` has the parameters, the buffers and the results of `s`. -/
structure SameResults (s t : State) : Prop where
  cfg : t.cfg = s.cfg
  epoch : t.epoch = s.epoch
  mem : ∀ sp, t.mem sp = s.mem sp
  txLen : t.txLen = s.txLen
  rxPlen : t.rxPlen = s.rxPlen
  rxPoff : t.rxPoff = s.rxPoff
  rxInfo : t.rxInfo = s.rxInfo
  rxFlags : t.rxFlags = s.rxFlags

/-- A state with the same results meets the invariant, whatever its operand registers hold within REGW bits and whichever VALID
bits it has cleared. -/
theorem State.Inv.of_sameResults {s t : State} (h : s.Inv) (hsame : SameResults s t) (hops : t.operandsFit)
    (htx : t.txValid = true → s.txValid = true) (hrx : t.rxValid = true → s.rxValid = true) : t.Inv where
  cfg := hsame.cfg ▸ h.cfg
  operands := hops
  mem := memOk_congr h.mem hsame.mem hsame.cfg
  tx hv := txPacketOk_congr (h.tx (htx hv)) hsame.cfg hsame.epoch hsame.txLen (hsame.mem _)
  rx hv := rxFrameOk_congr (h.rx (hrx hv)) hsame.cfg hsame.rxInfo hsame.rxPlen (hsame.mem _)
  offsetFlag := by rw [hsame.rxInfo, hsame.rxFlags, h.offsetFlag]
  noOffset := by
    rw [hsame.rxInfo, hsame.rxPoff]
    exact h.noOffset

/-- `STATUS` may change as long as no VALID bit is set, and the model's own lists may change. -/
theorem State.Inv.set_status {s : State} (h : s.Inv) (err : Err) {txValid rxValid : Bool} (events : List Event)
    (replies : List Nat) (htx : txValid = true → s.txValid = true) (hrx : rxValid = true → s.rxValid = true) :
    ({ s with err := err, txValid := txValid, rxValid := rxValid, events := events, replies := replies } : State).Inv :=
  h.of_sameResults ⟨rfl, rfl, fun sp => by cases sp <;> rfl, rfl, rfl, rfl, rfl, rfl⟩ { h.operands with } htx hrx

theorem State.Inv.set_events {s : State} (h : s.Inv) (events : List Event) : ({ s with events := events } : State).Inv :=
  h.set_status s.err events s.replies id id

/-! ### Reset -/

/-- The state after reset meets the invariant for all parameters that 00_scope.md R6 allows. -/
theorem afterReset_inv {cfg : Config} (hc : cfg.ok) (n : Nat) (es : List Event) (rs : List Nat) :
    (State.afterReset cfg n es rs).Inv where
  cfg := hc
  operands := by constructor <;> exact Nat.two_pow_pos _
  mem := reset_memOk cfg n es rs
  tx := nofun
  rx := nofun
  offsetFlag := by simp [State.afterReset]
  noOffset _ := rfl

/-- Settles O8: the default parameters are allowed. -/
theorem resetMeetsInvariant : Obligations.ResetMeetsInvariant := by
  unfold Obligations.ResetMeetsInvariant
  exact afterReset_inv (by decide) 0 [] []

/-! ### Registers and buffers -/

/-- Values that the host may write fit the operand registers; `COLOR` is none (10_state.md R13, R18). -/
theorem operandsFit_regWrite {s : State} (h : s.operandsFit) {v : Nat} {r : Reg} (hv : r ≠ .color → v < 2 ^ s.cfg.regw) :
    (regWrite s v r).operandsFit := by
  cases r with
  | txAddr => exact { h with txAddr := hv nofun }
  | txCmd => exact { h with txCmd := hv nofun }
  | txFlags => exact { h with txFlags := hv nofun }
  | txPlen => exact { h with txPlen := hv nofun }
  | txPoff => exact { h with txPoff := hv nofun }
  | packPtr => exact { h with packPtr := hv nofun }
  | rxLen => exact { h with rxLen := hv nofun }
  | op | status | txCtrl | txLen | color | rxAddr | rxCmd | rxFlags | rxPlen | rxPoff | rxInfo => exact { h with }

theorem operandsFit_writeNum {s : State} (h : s.operandsFit) {n v : Nat} (hv : valueFits s.cfg n v = true) :
    (writeNum s n v).operandsFit := by
  unfold writeNum
  split
  · next r hr =>
    refine operandsFit_regWrite h fun hcolor => ?_
    have hne : n ≠ Reg.color.num := by
      rintro rfl
      exact hcolor (Option.some.inj (hr.symm.trans rfl))
    simpa [valueFits, hne] using hv
  · exact h

theorem State.Inv.writeNum {s : State} (h : s.Inv) {n v : Nat} (hv : valueFits s.cfg n v = true) : (writeNum s n v).Inv := by
  obtain ⟨hc, -, htx, hrx, htxLen, hplen, hpoff, hinfo, hflags, hm, he, -, -⟩ := writeNum_frame s n v
  exact h.of_sameResults ⟨hc, he, hm, htxLen, hplen, hpoff, hinfo, hflags⟩ (operandsFit_writeNum h.operands hv)
    htx.symm.trans hrx.symm.trans

/-- A store into TPAY or RXBUF keeps the invariant: neither VALID bit speaks of them. -/
theorem State.Inv.store {s : State} (h : s.Inv) {sp : Space} {i : Nat} {bs : List Byte} (hw : hostWritable sp = true)
    (hi : i + bs.length ≤ spaceSize s.cfg sp) : (s.store sp i bs).Inv where
  cfg := by simpa using h.cfg
  operands := by cases sp <;> exact { h.operands with }
  mem := store_memOk s sp i bs h.mem hi
  tx hv := by
    have hne : Space.txbuf ≠ sp := by rintro rfl; cases hw
    exact txPacketOk_congr (h.tx (by simpa using hv)) (store_cfg ..) (store_epoch ..) (store_txLen ..)
      (mem_store_other s sp .txbuf i bs hne)
  rx hv := by
    have hne : Space.rpay ≠ sp := by rintro rfl; cases hw
    exact rxFrameOk_congr (h.rx (by simpa using hv)) (store_cfg ..) (store_rxInfo ..) (store_rxPlen ..)
      (mem_store_other s sp .rpay i bs hne)
  offsetFlag := by simpa using h.offsetFlag
  noOffset := by simpa using h.noOffset

/-- Every index of a buffer fits an operand register: REGW is at least 17 (00_scope.md R6). -/
theorem lt_regw_of_le {cfg : Config} (hc : cfg.ok) {v : Nat} (h : v ≤ 12 + cfg.pbufSize) : v < 2 ^ cfg.regw := by
  obtain ⟨hw, -, hp, -⟩ := hc
  have hpow : 2 ^ 17 ≤ 2 ^ cfg.regw := Nat.pow_le_pow_right (by omega) hw
  omega

theorem State.Inv.received {s : State} (h : s.Inv) {bs : List Byte} (hb : bs.length ≤ s.cfg.rbufSize) :
    (received s bs).Inv := by
  have hstored : (s.store .rxbuf 0 bs).Inv := h.store rfl (by simpa [spaceSize] using hb)
  have hlen : bs.length < 2 ^ s.cfg.regw := by
    obtain ⟨-, -, -, -, hr⟩ := h.cfg
    exact lt_regw_of_le h.cfg (hb.trans hr)
  exact hstored.of_sameResults ⟨rfl, rfl, fun sp => by cases sp <;> rfl, rfl, rfl, rfl, rfl, rfl⟩
    { hstored.operands with rxLen := hlen } id id

/-- A host action keeps the invariant. -/
theorem State.Inv.plainEvent {e : Event} {s t : State} (h : s.Inv) (hf : eventFits s.cfg e = true)
    (hop : ∀ v, e ≠ .wr 0x00 v) (ht : plainEvent e s = .next t) : t.Inv := by
  rcases plainEvent_next hop ht with ⟨n, v, rfl, rfl⟩ | ⟨rs, rfl⟩ | ⟨sp, i, b, hw, hi, rfl⟩ | ⟨bs, hb, rfl⟩ | ⟨-, rfl⟩
  · exact h.writeNum hf
  · exact h.set_status s.err s.events rs id id
  · exact h.store hw hi
  · exact h.received hb
  · exact afterReset_inv h.cfg _ _ _

/-! ### Operations -/

/-- A successful ENCODE leaves a marked and checksummed packet (41_encode.md R109). -/
theorem txPacketOk_encoded {s : State} (hv : frameInvalid s = false) : (encoded s).txPacketOk := by
  obtain ⟨-, -, -, -, -, hp⟩ := frameInvalid_false hv
  have hlen := encoded_txLen hv
  obtain ⟨m0, m1, m2, m3⟩ := encoded_marker s
  constructor
  · rw [hlen]
    split <;> omega
  · change (encoded s).txLen.toNat ≤ 12 + s.cfg.pbufSize
    rw [hlen]
    split <;> omega
  · intro i hi
    rw [hlen, ← length_encodedPacket] at hi
    obtain ⟨b, hb⟩ := written_store s .txbuf 0 (encodedPacket s) i hi
    rw [Nat.zero_add] at hb
    exact ⟨b, hb⟩
  · calc (encoded s).bytes .txbuf 0 4
      _ = [(encoded s).byte .txbuf 0, (encoded s).byte .txbuf 1, (encoded s).byte .txbuf 2, (encoded s).byte .txbuf 3] := rfl
      _ = marker := by rw [m0, m1, m2, m3]; rfl
  · exact (encoded_sum s).symm

theorem State.Inv.encoded {s : State} (h : s.Inv) (hv : frameInvalid s = false) : (encoded s).Inv where
  cfg := h.cfg
  operands := { h.operands with }
  mem := by
    have hfits : 0 + (encodedPacket s).length ≤ spaceSize s.cfg .txbuf := by
      obtain ⟨-, -, -, -, -, hp⟩ := frameInvalid_false hv
      rw [length_encodedPacket, spaceSize]
      split <;> omega
    exact memOk_congr (store_memOk s .txbuf 0 _ h.mem hfits) (fun sp => by cases sp <;> rfl) rfl
  tx _ := txPacketOk_encoded hv
  rx hr := rxFrameOk_congr (h.rx hr) rfl rfl rfl rfl
  offsetFlag := h.offsetFlag
  noOffset := h.noOffset

theorem State.Inv.packed {s : State} (h : s.Inv) (hp : s.packPtr + 4 ≤ s.cfg.pbufSize) : (packed s).Inv := by
  have hstored : (s.store .tpay s.packPtr (rgbwBytes s.color)).Inv := h.store rfl hp
  exact hstored.of_sameResults ⟨rfl, rfl, fun sp => by cases sp <;> rfl, rfl, rfl, rfl, rfl, rfl⟩
    { hstored.operands with packPtr := lt_regw_of_le h.cfg (hp.trans (Nat.le_add_left ..)) } id id

/-- A successful decode leaves a Frame that lies in RPAY (42_decode.md R126, R134). -/
theorem rxFrameOk_decoded {s : State} (hfits : (rxPayload s).length ≤ s.cfg.pbufSize) : (decoded s).rxFrameOk := by
  constructor
  · intro hinfo
    rw [rxInfo_decoded] at hinfo
    obtain ⟨hplen, -⟩ := decoded_short hinfo
    exact BitVec.eq_of_toNat_eq hplen
  · rwa [toNat_rxPlen_decoded, cfg_decoded]
  · intro i hi
    rw [toNat_rxPlen_decoded] at hi
    obtain ⟨b, hb⟩ := written_store s .rpay 0 (rxPayload s) i hi
    rw [Nat.zero_add] at hb
    rw [decoded_eq]
    exact ⟨b, hb⟩

theorem State.Inv.decoded {s : State} (h : s.Inv) (hfits : (rxPayload s).length ≤ s.cfg.pbufSize) : (decoded s).Inv where
  cfg := by simpa using h.cfg
  operands := by
    rw [decoded_eq]
    exact { h.operands with }
  mem := by
    have hstored : (s.store .rpay 0 (rxPayload s)).memOk := store_memOk s .rpay 0 _ h.mem (by simpa [spaceSize] using hfits)
    rw [decoded_eq]
    exact memOk_congr hstored (fun sp => by cases sp <;> rfl) rfl
  tx hv := by
    rw [decoded_eq] at hv ⊢
    exact txPacketOk_congr (h.tx hv) rfl rfl rfl rfl
  rx _ := rxFrameOk_decoded hfits
  offsetFlag := by
    obtain ⟨-, -, hflags⟩ := decoded_fields s
    rw [rxInfo_decoded, hflags, long_rxHeader]
  noOffset hinfo := by
    rw [rxInfo_decoded] at hinfo
    obtain ⟨-, -, -, hpoff⟩ := decoded_short hinfo
    exact hpoff

/-- An operation keeps the invariant, whether it succeeds or fails. -/
theorem State.Inv.exec_operation {i : Instr} {s t : State} (h : s.Inv)
    (hi : i = .encode ∨ i = .pack ∨ i = .decode ∨ i = .decodeNV) (ht : exec i s = .next t) : t.Inv := by
  rcases hi with rfl | rfl | hdecode
  · cases hv : frameInvalid s
    · cases (exec_encode_valid hv).symm.trans ht
      exact h.encoded hv
    · cases (exec_encode_invalid hv).symm.trans ht
      exact h.set_status _ s.events s.replies nofun id
  · rcases Nat.lt_or_ge s.cfg.pbufSize (s.packPtr + 4) with hout | hfits
    · cases (exec_pack_outside hout).symm.trans ht
      exact h.set_status _ s.events s.replies id id
    · cases (exec_pack_fits hfits).symm.trans ht
      exact h.packed hfits
  · rcases exec_decode_next hdecode ht with ⟨-, rfl⟩ | ⟨-, e, -, rfl⟩ | ⟨hframe, rfl⟩
    · exact h.set_status _ s.events s.replies id id
    · exact h.set_status _ s.events s.replies id nofun
    · exact h.decoded hframe.inRpay

/-- Settles O13: a step is idle, an operation, a reserved code or a host action, and each keeps the invariant. -/
theorem stepKeepsInvariant : Obligations.StepKeepsInvariant := by
  unfold Obligations.StepKeepsInvariant
  intro s t h hstep
  rcases step_next_cases hstep with rfl | ⟨e, rest, -, hf, ⟨i, hi, ht⟩ | rfl | ⟨hop, ht⟩⟩
  · exact h
  · exact (h.set_events rest).exec_operation hi ht
  · rw [raise_reserved]
    exact h.set_status _ rest s.replies id id
  · exact (h.set_events rest).plainEvent hf hop ht

end Sys2Proof.Machine
end

section
/-! What the host sees (10_state.md R13 to R17; 20_memory.md R41, R42, R54; 30_encoding.md R79): register and buffer accesses, a
reset, and the pseudo-actions FILL and LOOPBACK run one action after the other. -/

namespace Sys2Proof.Machine

/-- Settles O7: the step is the reset, after which every register reads 0 and no byte is written. -/
theorem resetEventLeavesZeros : Obligations.ResetEventLeavesZeros := by
  unfold Obligations.ResetEventLeavesZeros
  exact fun s rest he => ⟨_, step_of_not_op he rfl nofun, readNum_afterReset _ _ _ _, not_written_afterReset _ _ _ _, rfl, rfl⟩

/-! ### Registers -/

/-- Settles O18: a used number is its register's, and an unused one is none. -/
theorem registerReads : Obligations.RegisterReads := by
  unfold Obligations.RegisterReads
  refine fun s => ⟨rfl, rfl, rfl, rfl, rfl, rfl, rfl, rfl, rfl, rfl, rfl, rfl, rfl, rfl, rfl, rfl, fun n hn => ?_⟩
  rw [readNum, ofNum_unused hn]

/-- The reserved bit 3 of `STATUS`, its two VALID bits and its size (10_state.md R17). -/
theorem statusWord_bits (s : State) :
    (statusWord s).testBit 3 = false ∧ (statusWord s).testBit 4 = s.txValid ∧ (statusWord s).testBit 5 = s.rxValid
      ∧ statusWord s < 64 := by
  unfold statusWord
  cases s.err <;> cases s.txValid <;> cases s.rxValid <;> decide

/-- Settles O19: bits 2:0 are the code of the error, which tells the five apart. -/
theorem statusWordLayout : Obligations.StatusWordLayout := by
  unfold Obligations.StatusWordLayout
  intro s
  have hbits : (readNum s 0x01).testBit 3 = false ∧ (readNum s 0x01).testBit 4 = s.txValid
      ∧ (readNum s 0x01).testBit 5 = s.rxValid ∧ readNum s 0x01 < 64 := statusWord_bits s
  rw [readNum_status_mod_eight]
  refine ⟨?_, ?_, ?_, ?_, ?_, ?_, hbits⟩ <;> cases s.err <;> decide

/-- A write of a read-only register or an unused number changes nothing (10_state.md R13, R14). -/
theorem writeNum_readOnly (s : State) {n : Nat} (v : Nat)
    (h : n ∉ [0x02, 0x03, 0x04, 0x05, 0x06, 0x07, 0x09, 0x0A, 0x10]) : writeNum s n v = s := by
  unfold writeNum
  split
  · next r hr =>
    obtain rfl := (ofNum_eq_some_iff n r).1 hr
    cases r with
    | op | status | txLen | rxAddr | rxCmd | rxFlags | rxPlen | rxPoff | rxInfo => rfl
    | txAddr | txCmd | txFlags | txPlen | txPoff | txCtrl | color | packPtr | rxLen => exact absurd (by decide) h
  · rfl

/-- A read adds the value to the answers and changes nothing (10_state.md R13). -/
theorem step_rd {s : State} {n : Nat} {rest : List Event} (he : s.events = .rd n :: rest) :
    step s = .next { s with events := rest, replies := readNum s n :: s.replies } :=
  step_of_not_op he rfl nofun

/-- Settles O17: a write is `writeNum`, register by register; a read adds an answer; `OP` reads 0. -/
theorem hostRegisterAccess : Obligations.HostRegisterAccess := by
  unfold Obligations.HostRegisterAccess
  refine ⟨fun s n v rest he hn hv => ?_, fun s n rest => step_rd, fun _ => rfl⟩
  have hop : ∀ w, Event.wr n v ≠ .wr 0x00 w := by
    rintro w ⟨⟩
    exact hn rfl
  have hstep : step s = .next (writeNum { s with events := rest } n v) := by
    rw [step_of_not_op he hv hop, plainEvent, plainWrite_of_ne hn]
  refine ⟨_, hstep, ?_, ?_, ?_, ?_, ?_, ?txCtrl, ?color, ?_, ?_, writeNum_readOnly { s with events := rest } v⟩
  case txCtrl =>
    rintro rfl
    have hbit : v.testBit 0 = (v % 2 == 1) := Nat.testBit_zero v
    rw [← hbit]
    rfl
  case color =>
    rintro rfl
    exact ⟨rfl, BitVec.toNat_ofNat v 32⟩
  all_goals
    rintro rfl
    rfl

/-! ### Buffers -/

theorem hostWrite_inside {s : State} {sp : Space} {i : Nat} (b : Byte) (hw : hostWritable sp = true)
    (hi : i < spaceSize s.cfg sp) : hostWrite s sp i b = .next (s.store sp i [b]) := by
  simp [hostWrite, inSpace, hw, Nat.succ_le_iff.2 hi]

theorem hostWrite_outside {s : State} {sp : Space} {i : Nat} (b : Byte) (hw : hostWritable sp = true)
    (hi : spaceSize s.cfg sp ≤ i) : hostWrite s sp i b = .refused (.noSuchByte sp) := by
  simp [hostWrite, inSpace, hw, hi]

theorem hostWrite_result {s : State} {sp : Space} (i : Nat) (b : Byte) (hw : hostWritable sp = false) :
    hostWrite s sp i b = .refused (.resultBuffer sp) := by
  simp [hostWrite, hw]

theorem hostRead_inside {s : State} {sp : Space} {i : Nat} (hi : i < spaceSize s.cfg sp) :
    hostRead s sp i = .next { s with replies := (s.byte sp i).toNat :: s.replies } := by
  simp [hostRead, inSpace, Nat.succ_le_iff.2 hi]

theorem hostRead_outside {s : State} {sp : Space} {i : Nat} (hi : spaceSize s.cfg sp ≤ i) :
    hostRead s sp i = .refused (.noSuchByte sp) := by
  simp [hostRead, inSpace, hi]

theorem step_wb {s : State} {sp : Space} {i : Nat} {b : Byte} {rest : List Event} (he : s.events = .wb sp i b :: rest) :
    step s = hostWrite { s with events := rest } sp i b :=
  step_of_not_op he rfl nofun

theorem step_rb {s : State} {sp : Space} {i : Nat} {rest : List Event} (he : s.events = .rb sp i :: rest) :
    step s = hostRead { s with events := rest } sp i :=
  step_of_not_op he rfl nofun

/-- Settles O20: an access is the host's own, inside its space and outside. -/
theorem hostBufferAccess : Obligations.HostBufferAccess := by
  unfold Obligations.HostBufferAccess
  refine ⟨fun s sp i b rest he => ⟨fun hsp hi => ?_, fun hsp hi => ?_, fun hsp => ?_⟩, fun s sp i rest he => ⟨fun hi => ?_,
    fun hi => ?_⟩⟩
  · have hw : hostWritable sp = true := by rcases hsp with rfl | rfl <;> rfl
    refine ⟨_, (step_wb he).trans (hostWrite_inside b hw hi), ?_, ?_, ?_, ?_, ?_⟩
    · rcases hsp with rfl | rfl <;> rfl
    · exact byte_store_inside { s with events := rest } sp i [b] 0 (by simp)
    · intro a ha
      rw [byte_store_outside { s with events := rest } sp i [b] a ha]
      exact byte_congr (by cases sp <;> rfl) rfl a
    · rintro rfl
      rfl
    · rintro rfl
      rfl
  · have hw : hostWritable sp = true := by rcases hsp with rfl | rfl <;> rfl
    exact (step_wb he).trans (hostWrite_outside b hw hi)
  · have hw : hostWritable sp = false := by rcases hsp with rfl | rfl <;> rfl
    exact (step_wb he).trans (hostWrite_result i b hw)
  · have hbyte : ({ s with events := rest } : State).byte sp i = s.byte sp i := byte_congr (by cases sp <;> rfl) rfl i
    rw [step_rb he, hostRead_inside (s := { s with events := rest }) hi, hbyte]
  · exact (step_rb he).trans (hostRead_outside hi)

/-! ### Runs -/

theorem run_of_step {s t : State} (h : step s = .next t) (k : Nat) :
    Sys2Proof.core.run (k + 1) s = Sys2Proof.core.run k t := by
  have hstep : Sys2Proof.core.step s = .next t := h
  simp only [Host.Core.run, hstep]

theorem step_of_run_succ {s t : State} {n : Nat} (h : Sys2Proof.core.run (n + 1) s = .next t) :
    ∃ u, step s = .next u ∧ Sys2Proof.core.run n u = .next t := by
  simp only [Host.Core.run] at h
  split at h
  · next u hu => exact ⟨u, hu, h⟩
  · cases h
  · cases h

/-- A run of `n + k` steps is a run of `k` steps from where `n` steps end. -/
theorem run_add {s t : State} {n : Nat} (h : Sys2Proof.core.run n s = .next t) (k : Nat) :
    Sys2Proof.core.run (n + k) s = Sys2Proof.core.run k t := by
  induction n generalizing s with
  | zero =>
    cases h
    rw [Nat.zero_add]
  | succ n ih =>
    obtain ⟨u, hu, hrun⟩ := step_of_run_succ h
    rw [Nat.succ_add, run_of_step hu, ih hrun]

/-! ### Writes one after the other -/

/-- What an index reads as after a write: the byte written there, or what stood there. -/
theorem Memory.read_write (m : Memory) (i : Nat) (bs : List Byte) (a : Nat) :
    (m.write i bs).read a = if i ≤ a then bs[a - i]?.or (m.read a) else m.read a := by
  split
  · next hi =>
    obtain ⟨k, rfl⟩ := Nat.exists_eq_add_of_le hi
    rw [Nat.add_sub_cancel_left]
    rcases Nat.lt_or_ge k bs.length with hk | hk
    · rw [Memory.read_write_inside m i bs k hk, List.getElem?_eq_getElem hk, Option.some_or]
    · rw [Memory.read_write_outside m i bs _ (.inr (by omega)), List.getElem?_eq_none hk, Option.none_or]
  · next hi => exact Memory.read_write_outside m i bs a (.inl (Nat.lt_of_not_le hi))

/-- Bytes may be written in two parts. -/
theorem Memory.write_append {m : Memory} (h : m.wf) (i : Nat) (bs cs : List Byte) :
    m.write i (bs ++ cs) = (m.write i bs).write (i + bs.length) cs := by
  refine Memory.ext_of_wf (Memory.write_wf _ _ _ h) (Memory.write_wf _ _ _ (Memory.write_wf _ _ _ h)) fun a => ?_
  rw [Memory.read_write, Memory.read_write, Memory.read_write, List.getElem?_append]
  by_cases hi : i ≤ a
  · by_cases hb : a - i < bs.length
    · have hlow : ¬ i + bs.length ≤ a := by omega
      simp only [hi, hb, hlow, if_true, if_false]
    · have hhigh : i + bs.length ≤ a := by omega
      have hnone : bs[a - i]? = none := List.getElem?_eq_none (Nat.le_of_not_lt hb)
      simp only [hi, hb, hhigh, if_true, if_false, hnone, Option.none_or, Nat.sub_sub]
  · have hlow : ¬ i + bs.length ≤ a := by omega
    simp only [hi, hlow, if_false]

theorem Memory.write_nil {m : Memory} (h : m.wf) (i : Nat) : m.write i [] = m := by
  refine Memory.ext_of_wf (Memory.write_wf _ _ _ h) h fun a => ?_
  simp [Memory.read_write]

theorem store_rxbuf_append {s : State} (h : s.rxbuf.wf) (i : Nat) (bs cs : List Byte) :
    s.store .rxbuf i (bs ++ cs) = (s.store .rxbuf i bs).store .rxbuf (i + bs.length) cs := by
  simp [State.store, State.setMem, Memory.write_append h]

theorem store_rxbuf_nil {s : State} (h : s.rxbuf.wf) (i : Nat) : s.store .rxbuf i [] = s := by
  simp [State.store, State.setMem, Memory.write_nil h]

/-! ### FILL and received bytes -/

/-- FILL writes its bytes one by one (30_encoding.md R79). -/
theorem run_fill {s : State} (h : s.rxbuf.wf) {i : Nat} {bs : List Byte} (hi : i + bs.length ≤ s.cfg.rbufSize)
    (rest : List Event) :
    Sys2Proof.core.run bs.length { s with events := fill .rxbuf i bs ++ rest }
      = .next { s.store .rxbuf i bs with events := rest } := by
  induction bs generalizing s i with
  | nil =>
    rw [store_rxbuf_nil h]
    rfl
  | cons b bs ih =>
    rw [List.length_cons] at hi
    have hstep : step { s with events := fill .rxbuf i (b :: bs) ++ rest }
        = .next { s.store .rxbuf i [b] with events := fill .rxbuf (i + 1) bs ++ rest } :=
      (step_wb rfl).trans (hostWrite_inside b rfl (show i < s.cfg.rbufSize by omega))
    have hwf : (s.store .rxbuf i [b]).rxbuf.wf := Memory.write_wf _ _ _ h
    have hfits : i + 1 + bs.length ≤ (s.store .rxbuf i [b]).cfg.rbufSize := by rw [store_cfg]; omega
    rw [List.length_cons, run_of_step hstep, ih hwf hfits]
    exact congrArg (fun u : State => Host.Outcome.next { u with events := rest }) (store_rxbuf_append h i [b] bs).symm

/-- RXBUF is no longer than the longest packet (00_scope.md R6). -/
theorem rbufSize_le {cfg : Config} (hc : cfg.ok) : cfg.rbufSize ≤ 12 + 65535 := by
  obtain ⟨-, -, hp, -, hr⟩ := hc
  omega

/-- `WR RX_LEN` sets `RX_LEN`. -/
theorem step_wr_rxLen {s : State} {v : Nat} {rest : List Event} (he : s.events = .wr 0x10 v :: rest)
    (hv : valueFits s.cfg 0x10 v = true) : step s = .next { s with events := rest, rxLen := v } :=
  step_of_not_op he hv nofun

/-- Settles O21: FILL leaves the bytes in RXBUF, and the write of `RX_LEN` their count. -/
theorem receivedBytesAreFillAndLength : Obligations.ReceivedBytesAreFillAndLength := by
  unfold Obligations.ReceivedBytesAreFillAndLength
  intro s bs hc hwf hfits
  have hv : valueFits s.cfg 0x10 bs.length = true := by
    have hmax := rbufSize_le hc
    exact valueFits_of_lt hc _ (by omega)
  have hwr : step { s.store .rxbuf 0 bs with events := .wr 0x10 bs.length :: s.events } = .next (received s bs) :=
    step_wr_rxLen rfl hv
  have hreceive : step { s with events := .receive bs :: s.events } = .next (received s bs) :=
    (step_of_not_op (e := .receive bs) rfl rfl nofun).trans (placeReceived_fits hfits)
  rw [List.append_assoc, run_add (run_fill hwf (by omega) _), hreceive]
  exact run_of_step hwr 0

/-! ### LOOPBACK -/

/-- The reads of TXBUF and writes of RXBUF that LOOPBACK expands to, for the first `n` bytes (30_encoding.md R79). -/
def copyActions (s : State) (n : Nat) : List Event :=
  (List.range n).flatMap (fun j => [.rb .txbuf j, .wb .rxbuf j (s.byte .txbuf j)])

theorem loopback_eq (s : State) :
    loopback s = .rd Reg.txLen.num :: (copyActions s s.txLen.toNat ++ [.wr Reg.rxLen.num s.txLen.toNat]) := rfl

theorem copyActions_succ (s : State) (n : Nat) :
    copyActions s (n + 1) = copyActions s n ++ [.rb .txbuf n, .wb .rxbuf n (s.byte .txbuf n)] := by
  simp [copyActions, List.range_succ]

theorem length_copyActions (s : State) (n : Nat) : (copyActions s n).length = n * 2 := by
  simp [copyActions]

/-- `s` with the first `n` bytes of TXBUF in RXBUF, the actions still to come and the answers so far. -/
def carried (s : State) (n : Nat) (events : List Event) (answers : List Nat) : State :=
  { s.store .rxbuf 0 (s.bytes .txbuf 0 n) with events := events, replies := answers }

theorem carried_zero {s : State} (h : s.rxbuf.wf) (events : List Event) (answers : List Nat) :
    carried s 0 events answers = { s with events := events, replies := answers } := by
  have hstore : s.store .rxbuf 0 (s.bytes .txbuf 0 0) = s := store_rxbuf_nil h 0
  rw [carried, hstore]

theorem carried_succ {s : State} (h : s.rxbuf.wf) (n : Nat) (events : List Event) (answers : List Nat) :
    carried s (n + 1) events answers = (carried s n events answers).store .rxbuf n [s.byte .txbuf n] := by
  have hbytes : s.bytes .txbuf 0 (n + 1) = s.bytes .txbuf 0 n ++ [s.byte .txbuf n] := by simp [State.bytes, List.range_succ]
  rw [carried, hbytes, store_rxbuf_append h, length_bytes, Nat.zero_add]
  rfl

theorem step_carried_rb {s : State} {n : Nat} (hn : n < 12 + s.cfg.pbufSize) (rest : List Event) (answers : List Nat) :
    ∃ answers', step (carried s n (.rb .txbuf n :: rest) answers) = .next (carried s n rest answers') :=
  ⟨_, (step_rb rfl).trans (hostRead_inside hn)⟩

theorem step_carried_wb {s : State} (h : s.rxbuf.wf) {n : Nat} (hn : n < s.cfg.rbufSize) (rest : List Event)
    (answers : List Nat) :
    step (carried s n (.wb .rxbuf n (s.byte .txbuf n) :: rest) answers) = .next (carried s (n + 1) rest answers) := by
  rw [carried_succ h]
  exact (step_wb rfl).trans (hostWrite_inside _ rfl hn)

/-- The bytes are carried one by one. -/
theorem run_copyActions {s : State} (h : s.rxbuf.wf) {n : Nat} (hrx : n ≤ s.cfg.rbufSize) (htx : n ≤ 12 + s.cfg.pbufSize)
    (rest : List Event) (answers : List Nat) :
    ∃ answers', Sys2Proof.core.run (n * 2) (carried s 0 (copyActions s n ++ rest) answers)
      = .next (carried s n rest answers') := by
  induction n generalizing rest with
  | zero => exact ⟨answers, rfl⟩
  | succ n ih =>
    obtain ⟨_, hrun⟩ := ih (by omega) (by omega) (.rb .txbuf n :: .wb .rxbuf n (s.byte .txbuf n) :: rest)
    obtain ⟨answers', hrb⟩ := step_carried_rb htx (.wb .rxbuf n (s.byte .txbuf n) :: rest) _
    have hwb := step_carried_wb h hrx rest answers'
    refine ⟨answers', ?_⟩
    rw [copyActions_succ, List.append_assoc, Nat.succ_mul]
    exact (run_add hrun 2).trans ((run_of_step hrb 1).trans (run_of_step hwb 0))

/-- Settles O22: the read of `TX_LEN`, the bytes one by one, and the write of `RX_LEN`. -/
theorem loopbackCarriesThePacket : Obligations.LoopbackCarriesThePacket := by
  unfold Obligations.LoopbackCarriesThePacket
  intro s hc hwf hrx htx
  have hv : valueFits s.cfg 0x10 s.txLen.toNat = true := valueFits_of_lt hc _ s.txLen.isLt
  have hqueue : loopback s ++ s.events
      = .rd 0x08 :: (copyActions s s.txLen.toNat ++ .wr 0x10 s.txLen.toNat :: s.events) := by
    simp [loopback_eq, Reg.num]
  have hrd : step { s with events := loopback s ++ s.events }
      = .next (carried s 0 (copyActions s s.txLen.toNat ++ .wr 0x10 s.txLen.toNat :: s.events)
          (readNum s 0x08 :: s.replies)) := by
    rw [carried_zero hwf]
    exact step_rd (s := { s with events := loopback s ++ s.events }) hqueue
  obtain ⟨answers, hcopy⟩ := run_copyActions hwf hrx htx (.wr 0x10 s.txLen.toNat :: s.events) (readNum s 0x08 :: s.replies)
  have hwr : step (carried s s.txLen.toNat (.wr 0x10 s.txLen.toNat :: s.events) answers)
      = .next { loopedBack s with replies := answers } := step_wr_rxLen rfl hv
  have hlen : (loopback s).length = s.txLen.toNat * 2 + 1 + 1 := by
    simp [loopback_eq, length_copyActions]
  refine ⟨{ loopedBack s with replies := answers }, ?_, rfl⟩
  rw [hlen, run_of_step hrd, run_add hcopy]
  exact run_of_step hwr 0

end Sys2Proof.Machine
end

section
/-! The operations once more: what a decode reads and gives, a packet whose flags bit 7 the caller set, and the errors of each
operation. -/

namespace Sys2Proof.Machine

/-! ### The decoded Frame -/

/-- Settles O33: header and body are there, so the Frame found is the long one of RXBUF. -/
theorem decodeLongFrame : Obligations.DecodeLongFrame := by
  unfold Obligations.DecodeLongFrame
  intro s i hi hc hn hflag hlen hsum
  have hl : (rxHeader s).long = true := (long_rxHeader s).trans hflag
  have hbody : 12 + (rxHeader s).length.toNat ≤ s.rxLen := by rwa [toNat_length_rxHeader]
  have hframe : FindsFrame i s :=
    .of_ok hc hn (by omega) (fun hdec => (csumOk_rxHeader_iff s).2 (hsum hdec)) fun _ => hbody
  obtain ⟨ha, hcmd, hf⟩ := decoded_fields s
  obtain ⟨hplen, hpay, hinfo, hoff⟩ := decoded_long hl
  refine ⟨_, exec_decode_frame hi hframe, err_decoded s, rxValid_decoded s, ha, hcmd, hf,
    hplen.trans (toNat_length_rxHeader s), ?_, fun k hk => hpay k (hk.trans_eq hplen), hinfo⟩
  rw [hoff, toNat_offset_rxHeader]

/-- Settles O36: a decode reads the header, bytes 4 to 11, and the payload, which for a long packet is the body. -/
theorem decodeReadsOnlyThePacket : Obligations.DecodeReadsOnlyThePacket := by
  unfold Obligations.DecodeReadsOnlyThePacket
  intro s t i m hi h hfront hbody
  have hheader : rxHeader { s with rxbuf := m } = rxHeader s := by simp [rxHeader, hfront]
  refine exec_decode_rxbuf hi h m (fun _ => hheader) fun _ _ => ?_
  cases hl : (rxHeader s).long
  · rw [rxPayload_short hl, rxPayload_short (by rwa [hheader])]
    exact bytes_eq_of_byte fun k hk => hfront _ (by omega) (by omega)
  · rw [rxPayload_long hl, rxPayload_long (by rwa [hheader]), hheader]
    refine bytes_eq_of_byte fun k hk => ?_
    rw [toNat_length_rxHeader] at hk
    exact hbody hl _ (by omega) (by omega)

/-! ### Flags bit 7 set by the caller -/

theorem getLsbD_seven_of_ge {b : Byte} (h : 128 ≤ b.toNat) : b.getLsbD 7 = true := by
  have hb := b.isLt
  rw [BitVec.getLsbD, Nat.testBit_eq_decide_div_mod_eq, decide_eq_true_eq]
  omega

/-- Settles O28: the short packet of O24, looped back, reads as a long one whose length is payload bytes 0 and 1. -/
theorem callerBitSevenReadsAsLong : Obligations.CallerBitSevenReadsAsLong := by
  unfold Obligations.CallerBitSevenReadsAsLong
  intro s hc ha hcmd hf128 hf hp hctrl
  obtain ⟨t, ht, -, -, hlen, -, -, -, -, -, -, h6, -, hsum⟩ := encodeShortPacket s hc ha hcmd hf hp hctrl
  have hcfg : (loopedBack t).cfg = s.cfg := cfg_loopedBack_of_encode ht
  have hc' : (loopedBack t).cfg.ok := hcfg ▸ hc
  have hrxLen : (loopedBack t).rxLen = 12 := hlen
  have hn : (loopedBack t).rxLen ≤ (loopedBack t).cfg.rbufSize := by
    obtain ⟨-, -, -, hr, -⟩ := hc'
    exact hrxLen.trans_le hr
  have hrx (k : Nat) (hk : k < 12) : (loopedBack t).byte .rxbuf k = t.byte .txbuf k :=
    byte_loopedBack t k (hk.trans_eq hlen.symm)
  have hl : (rxHeader (loopedBack t)).long = true := by
    rw [long_rxHeader, hrx 6 (by omega)]
    exact getLsbD_seven_of_ge (by omega)
  have hcsum : csumOk (rxHeader (loopedBack t)) = true := by
    rw [csumOk_rxHeader_iff]
    simp [hrx, hsum]
  have hlength : (rxHeader (loopedBack t)).length.toNat = (t.byte .txbuf 7).toNat + 256 * (t.byte .txbuf 8).toNat := by
    rw [toNat_length_rxHeader, hrx 7 (by omega), hrx 8 (by omega)]
  refine ⟨t, ht, hlen, h6, fun hne => ?_, fun ⟨h7, h8⟩ => ?_⟩
  · have hpos : (rxHeader (loopedBack t)).length.toNat ≠ 0 := by
      rw [hlength]
      intro hzero
      have h7 : t.byte .txbuf 7 = 0 := BitVec.eq_of_toNat_eq (Nat.eq_zero_of_add_eq_zero_right hzero)
      have h8 : t.byte .txbuf 8 = 0 := BitVec.eq_of_toNat_eq (show _ = 0 by omega)
      exact hne.elim (absurd h7) (absurd h8)
    have hshort : bodyShort (loopedBack t).rxLen (rxHeader (loopedBack t)) = true :=
      (bodyShort_eq_true_iff _ _).2 ⟨hl, by omega⟩
    exact exec_decode_error (.inl rfl) hn hrxLen.ge
      (decodeError_truncated hshort (.inr ((sumBad_eq_false_iff _ _).2 fun _ => hcsum)))
  · have hzero : (rxHeader (loopedBack t)).length.toNat = 0 := by simp [hlength, h7, h8]
    have hframe : FindsFrame .decode (loopedBack t) := .of_ok hc' hn hrxLen.ge (fun _ => hcsum) fun _ => by omega
    obtain ⟨hplen, -, hinfo, hoff⟩ := decoded_long hl
    refine ⟨_, exec_decode_frame (.inl rfl) hframe, err_decoded _, BitVec.eq_of_toNat_eq (hplen.trans hzero), hinfo, ?_⟩
    rw [hoff, toNat_offset_rxHeader, hrx 9 (by omega), hrx 10 (by omega)]

/-! ### The errors of each operation -/

/-- Settles O50: the ways each operation ends. -/
theorem errorsOfEachOperation : Obligations.ErrorsOfEachOperation := by
  unfold Obligations.ErrorsOfEachOperation
  refine fun s t => ⟨fun h => ?_, fun h => ?_, fun h => ?_, fun h => ?_⟩
  · rcases execEncode_cases s with ⟨-, hs⟩ | ⟨-, hs⟩ <;> cases hs.symm.trans h
    · exact .inr rfl
    · exact .inl rfl
  · rcases Nat.lt_or_ge s.cfg.pbufSize (s.packPtr + 4) with hout | hfits
    · cases (exec_pack_outside hout).symm.trans h
      exact .inr rfl
    · cases (exec_pack_fits hfits).symm.trans h
      exact .inl rfl
  · rcases exec_decode_next (.inl rfl) h with ⟨hn, rfl⟩ | ⟨-, e, he, rfl⟩ | ⟨-, rfl⟩
    · exact ⟨nofun, fun _ => hn⟩
    · rcases he with rfl | ⟨-, rfl⟩ <;> exact ⟨nofun, nofun⟩
    · simp
  · rcases exec_decode_next (.inr rfl) h with ⟨hn, rfl⟩ | ⟨-, e, he, rfl⟩ | ⟨-, rfl⟩
    · exact ⟨nofun, nofun, fun _ => hn⟩
    · rcases he with rfl | ⟨hdec, -⟩
      · exact ⟨nofun, nofun, nofun⟩
      · cases hdec
    · simp

/-- Settles O39: 65532 is the first pointer whose four bytes do not fit. -/
theorem packRangeAtDefaults : Obligations.PackRangeAtDefaults := by
  unfold Obligations.PackRangeAtDefaults
  intro s hp
  constructor
  · exact fun h => ⟨_, exec_pack_outside (by omega), rfl⟩
  · rintro ⟨t, ht, herr⟩
    by_contra hlt
    cases (exec_pack_fits (by omega)).symm.trans ht
    cases herr

end Sys2Proof.Machine
end

section
/-! Which changes of a packet the checksum misses (40_checksum.md R93 to R95): those whose XOR is 0. -/

namespace Sys2Proof.Machine

/-- A header with each byte changed by the bits set in `e` (40_checksum.md R95). -/
def flipHeader (h e : Header) : Header :=
  { addr := h.addr ^^^ e.addr, cmd := h.cmd ^^^ e.cmd, flags := h.flags ^^^ e.flags, x7 := h.x7 ^^^ e.x7
    x8 := h.x8 ^^^ e.x8, x9 := h.x9 ^^^ e.x9, x10 := h.x10 ^^^ e.x10, sum := h.sum ^^^ e.sum }

/-- The XOR of the eight header bytes, which the checksum byte makes 0. -/
def headerXor (h : Header) : Byte := headerSum h ^^^ h.sum

theorem csumOk_iff_headerXor (h : Header) : csumOk h = true ↔ headerXor h = 0 := by
  rw [csumOk, beq_iff_eq, headerXor]
  exact BitVec.xor_eq_zero_iff.symm

/-- XOR is linear, as it has no carry (40_checksum.md R90). -/
theorem headerXor_flip (h e : Header) : headerXor (flipHeader h e) = headerXor h ^^^ headerXor e := by
  simp only [headerXor, headerSum, xor7, flipHeader]
  ac_rfl

theorem csumOk_flip_iff {h : Header} (hsum : csumOk h = true) (e : Header) :
    csumOk (flipHeader h e) = true ↔ headerXor e = 0 := by
  rw [csumOk_iff_headerXor] at hsum ⊢
  rw [headerXor_flip, hsum]
  exact iff_of_eq (congrArg (· = 0) BitVec.zero_xor)

/-- The checksum is over bytes 4 to 11 only (40_checksum.md R94). -/
theorem rxHeader_store_outside (s : State) {j : Nat} (v : Byte) (h : j < 4 ∨ 12 ≤ j) :
    rxHeader (s.store .rxbuf j [v]) = rxHeader s := by
  have hbyte (k : Nat) (h4 : 4 ≤ k) (h12 : k < 12) : (s.store .rxbuf j [v]).byte .rxbuf k = s.byte .rxbuf k :=
    byte_store_outside s .rxbuf j [v] k (by rw [List.length_singleton]; omega)
  simp [rxHeader, hbyte]

/-- Settles O42: the XOR of the changed bytes is that of the bytes and of the changes. -/
theorem checksumMissesEvenFlips : Obligations.ChecksumMissesEvenFlips := by
  unfold Obligations.ChecksumMissesEvenFlips
  exact ⟨fun h e hsum => csumOk_flip_iff hsum e, fun s j v hj => by rw [rxHeader_store_outside s v hj]⟩

/-- One changed byte: `d` at index `j` of the packet, 0 at the others. -/
def flipAt (j : Nat) (d : Byte) : Header :=
  { addr := if j = 4 then d else 0, cmd := if j = 5 then d else 0, flags := if j = 6 then d else 0
    x7 := if j = 7 then d else 0, x8 := if j = 8 then d else 0, x9 := if j = 9 then d else 0
    x10 := if j = 10 then d else 0, sum := if j = 11 then d else 0 }

theorem headerXor_flipAt {j : Nat} (h4 : 4 ≤ j) (h12 : j < 12) (d : Byte) : headerXor (flipAt j d) = d := by
  interval_cases j <;> simp [headerXor, headerSum, xor7, flipAt]

theorem byte_store_flip (s : State) (j : Nat) (v : Byte) (k : Nat) :
    (s.store .rxbuf j [v]).byte .rxbuf k = s.byte .rxbuf k ^^^ if j = k then s.byte .rxbuf j ^^^ v else 0 := by
  split
  · next hk =>
    subst hk
    have hstored : (s.store .rxbuf j [v]).byte .rxbuf j = v := byte_store_inside s .rxbuf j [v] 0 (by simp)
    rw [hstored, ← BitVec.xor_assoc, BitVec.xor_self, BitVec.zero_xor]
  · next hk =>
    have hkept : (s.store .rxbuf j [v]).byte .rxbuf k = s.byte .rxbuf k :=
      byte_store_outside s .rxbuf j [v] k (by rw [List.length_singleton]; omega)
    exact hkept.trans BitVec.xor_zero.symm

theorem rxHeader_store (s : State) (j : Nat) (v : Byte) :
    rxHeader (s.store .rxbuf j [v]) = flipHeader (rxHeader s) (flipAt j (s.byte .rxbuf j ^^^ v)) := by
  simp only [rxHeader, byte_store_flip, flipHeader, flipAt]

/-- Settles O41: one change alone does not cancel, and the checksum is tested first. -/
theorem oneChangedByteIsDetected : Obligations.OneChangedByteIsDetected := by
  unfold Obligations.OneChangedByteIsDetected
  intro s j v hc horder h12 hn hsum h4 hj hv
  have hbad : sumBad true (rxHeader (s.store .rxbuf j [v])) = true := by
    rw [sumBad_true_iff, rxHeader_store, csumOk_flip_iff hsum, headerXor_flipAt h4 hj]
    exact fun h => hv (BitVec.xor_eq_zero_iff.1 h).symm
  exact exec_decode_error (.inl rfl) (by simpa using hn) (by simpa using h12)
    (decodeError_checksum hbad (.inl (by simpa using horder)))

end Sys2Proof.Machine
end

section
/-! The pure functions of `Machine/Frame.lean` (00_scope.md R1): ENCODE is `encode(frame) -> bytes`, and DECODE and DECODE.NV are
`decode(bytes, verifyChecksum) -> Frame`. -/

namespace Sys2Proof.Machine

/-! ### ENCODE is `encode(frame) -> bytes` -/

theorem toPacket_txFrame_invalid {s : State} (h : frameInvalid s = true) :
    (txFrame s).toPacket s.cfg.pbufSize = .error .invalidFrame := by
  rw [Frame.toPacket, oversized_txFrame, if_pos h]

/-- Settles O46: register test and Frame test are one, and so are the packets. -/
theorem encodeMeetsTheFunction : Obligations.EncodeMeetsTheFunction := by
  unfold Obligations.EncodeMeetsTheFunction
  intro s _
  cases hv : frameInvalid s with
  | true =>
    rw [toPacket_txFrame_invalid hv]
    refine ⟨nofun, ?_⟩
    rintro e ⟨⟩
    exact exec_encode_invalid hv
  | false =>
    rw [toPacket_txFrame hv]
    refine ⟨?_, nofun⟩
    rintro p ⟨⟩
    exact ⟨encoded s, exec_encode_valid hv, rfl, rfl, txPacket_encoded hv⟩

/-! ### The decoder as a function of the bytes in RXBUF -/

theorem at0_rxPacket {s : State} {k : Nat} (h : k < s.rxLen) : at0 (rxPacket s) k = s.byte .rxbuf k := by
  have hk : k < (rxPacket s).length := by simpa [rxPacket] using h
  rw [at0, List.getD_eq_getElem _ _ hk]
  simp [rxPacket]

/-- A part of RXBUF as a part of the received bytes. -/
theorem take_drop_rxPacket {s : State} {i n : Nat} (h : i + n ≤ s.rxLen) :
    ((rxPacket s).drop i).take n = s.bytes .rxbuf i n := by
  refine List.ext_getElem (by simp [rxPacket]; omega) fun k _ _ => ?_
  simp [rxPacket]

/-- The received header, read byte by byte (30_encoding.md R64). -/
theorem packetSum_rxPacket {s : State} (h12 : 12 ≤ s.rxLen) : packetSum (rxPacket s) = headerSum (rxHeader s) := by
  rw [packetSum, take_drop_rxPacket (by omega)]
  exact foldl_xor_eq_xor7 ..

/-- The checksum test of `frameOfPacket` (42_decode.md R124). -/
def packetBad (verify : Bool) (bs : List Byte) : Bool := verify && packetSum bs != at0 bs 11

/-- The body-length test of `frameOfPacket` (42_decode.md R125). -/
def packetShort (bs : List Byte) : Bool :=
  (at0 bs 6).getLsbD 7 && decide (bs.length < 12 + (unle16 (at0 bs 7) (at0 bs 8)).toNat)

theorem frameOfPacket_noHeader (order : CheckOrder) (verify : Bool) {bs : List Byte} (h : bs.length < 12) :
    frameOfPacket order verify bs = .error .truncatedFrame := by
  rw [frameOfPacket, if_pos h]

theorem frameOfPacket_error {order : CheckOrder} {verify : Bool} {bs : List Byte} {e : Err} (h12 : 12 ≤ bs.length)
    (he : decodeError order (packetBad verify bs) (packetShort bs) = some e) :
    frameOfPacket order verify bs = .error e := by
  simp only [packetBad, packetShort] at he
  simp only [frameOfPacket, Nat.not_lt.2 h12, if_false, he]

theorem frameOfPacket_ok {order : CheckOrder} {verify : Bool} {bs : List Byte} (h12 : 12 ≤ bs.length)
    (he : decodeError order (packetBad verify bs) (packetShort bs) = none) :
    frameOfPacket order verify bs = .ok (frameOf bs) := by
  simp only [packetBad, packetShort] at he
  simp only [frameOfPacket, Nat.not_lt.2 h12, if_false, he]

/-- A packet with a right checksum whose body is all there spells a Frame, in either order of the tests. -/
theorem frameOfPacket_of_right (order : CheckOrder) (verify : Bool) {bs : List Byte} (h12 : 12 ≤ bs.length)
    (hsum : packetSum bs = at0 bs 11) (hbody : packetShort bs = false) : frameOfPacket order verify bs = .ok (frameOf bs) := by
  have hbad : packetBad verify bs = false := by simp [packetBad, hsum]
  refine frameOfPacket_ok h12 ?_
  rw [hbad, hbody]
  cases order <;> rfl

section
variable {s : State} (h12 : 12 ≤ s.rxLen)
include h12

theorem packetBad_rxPacket (verify : Bool) : packetBad verify (rxPacket s) = sumBad verify (rxHeader s) := by
  rw [packetBad, packetSum_rxPacket h12, at0_rxPacket (by omega)]
  rfl

theorem packetShort_rxPacket : packetShort (rxPacket s) = bodyShort s.rxLen (rxHeader s) := by
  rw [packetShort, at0_rxPacket (by omega), at0_rxPacket (by omega), at0_rxPacket (by omega), rxPacket, length_bytes]
  rfl

/-- The payload, where the body of a long packet is there (42_decode.md R125, R126). -/
theorem frameOf_rxPacket (hbody : (rxHeader s).long = true → 12 + (rxHeader s).length.toNat ≤ s.rxLen) :
    frameOf (rxPacket s) =
      { memberAddress := (rxHeader s).addr.toNat, command := (rxHeader s).cmd.toNat, flags := (rxHeader s).flags.toNat
        payload := rxPayload s
        payloadOffset := if (rxHeader s).long then some (rxHeader s).offset.toNat else none } := by
  have hat (k : Nat) (hk : k < 12) : at0 (rxPacket s) k = s.byte .rxbuf k := at0_rxPacket (hk.trans_le h12)
  have hlong : (s.byte .rxbuf 6).getLsbD 7 = (rxHeader s).long := rfl
  have hlength : (unle16 (s.byte .rxbuf 7) (s.byte .rxbuf 8)).toNat = (rxHeader s).length.toNat := rfl
  rw [frameOf, hat 4 (by omega), hat 5 (by omega), hat 6 (by omega), hat 7 (by omega), hat 8 (by omega), hat 9 (by omega),
    hat 10 (by omega), hlong, hlength, take_drop_rxPacket (i := 7) (by omega)]
  cases hl : (rxHeader s).long
  · rw [rxPayload_short hl]
    rfl
  · rw [rxPayload_long hl, take_drop_rxPacket (hbody hl)]
    rfl

end

theorem bytes_rpay_decoded (s : State) : (decoded s).bytes .rpay 0 (decoded s).rxPlen.toNat = rxPayload s := by
  refine List.ext_getElem (by simp [toNat_rxPlen_decoded]) fun k _ hk => ?_
  simp [byte_rpay_decoded s k hk]

/-- The Frame in the RX registers and RPAY after a decode is the one the bytes spell (10_state.md R22). -/
theorem rxFrame_decoded {s : State} (h12 : 12 ≤ s.rxLen)
    (hbody : (rxHeader s).long = true → 12 + (rxHeader s).length.toNat ≤ s.rxLen) :
    rxFrame (decoded s) = some (frameOf (rxPacket s)) := by
  obtain ⟨haddr, hcmd, hflags⟩ := decoded_fields s
  rw [frameOf_rxPacket h12 hbody, rxFrame, if_pos (rxValid_decoded s), bytes_rpay_decoded, haddr, hcmd, hflags, rxInfo_decoded,
    rxPoff_decoded, rxOffset]
  cases (rxHeader s).long <;> rfl

/-- Settles O47: the tests are the same on bytes and registers, and so are the Frames. -/
theorem decodeMeetsTheFunction : Obligations.DecodeMeetsTheFunction := by
  unfold Obligations.DecodeMeetsTheFunction
  intro s i verify hiv hc hn
  have hi : i = .decode ∨ i = .decodeNV := hiv.imp And.left And.left
  obtain rfl : verify = decide (i = .decode) := by
    rcases hiv with ⟨rfl, rfl⟩ | ⟨rfl, rfl⟩ <;> rfl
  have hlen : (rxPacket s).length = s.rxLen := length_bytes ..
  rcases Nat.lt_or_ge s.rxLen 12 with h12 | h12
  · rw [frameOfPacket_noHeader _ _ (hlen.trans_lt h12)]
    refine ⟨nofun, ?_⟩
    rintro e ⟨⟩
    exact exec_decode_noHeader hi hn h12
  · cases he : decodeError s.cfg.checkOrder (sumBad (decide (i = .decode)) (rxHeader s)) (bodyShort s.rxLen (rxHeader s)) with
    | some e' =>
      rw [frameOfPacket_error (h12.trans_eq hlen.symm) (by rwa [packetBad_rxPacket h12, packetShort_rxPacket h12])]
      refine ⟨nofun, ?_⟩
      rintro e ⟨⟩
      exact exec_decode_error hi hn h12 he
    | none =>
      rw [frameOfPacket_ok (h12.trans_eq hlen.symm) (by rwa [packetBad_rxPacket h12, packetShort_rxPacket h12])]
      refine ⟨?_, nofun⟩
      rintro f ⟨⟩
      obtain ⟨hsum, hbody⟩ := decodeError_none he
      rw [bodyShort_eq_false_iff] at hbody
      have hframe : FindsFrame i s := .of_ok hc hn h12 (by simpa using (sumBad_eq_false_iff _ _).1 hsum) hbody
      exact ⟨_, exec_decode_frame hi hframe, err_decoded s, rxFrame_decoded h12 hbody⟩

end Sys2Proof.Machine
end

section
/-! The table's data rows (log entry 7; 44_wire_fields.md; 20_memory.md R54): command and flags bytes as numbers, packets as they
stand in RXBUF on arrival, and the Frames they decode to. -/

namespace Sys2Proof.Machine

/-! ### Command and flags bytes as numbers -/

theorem toNat_append_eq_add {m n : Nat} (x : BitVec m) (y : BitVec n) : (x ++ y).toNat = x.toNat * 2 ^ n + y.toNat := by
  rw [BitVec.toNat_append, ← Nat.shiftLeft_add_eq_or_of_lt y.isLt, Nat.shiftLeft_eq]

/-- Bit 7, bits 6:1 and bit 0 (44_wire_fields.md R156). -/
theorem toNat_flagsByte (long : Bool) (unnamed : BitVec 6) (rep : Bool) :
    (flagsByte long unnamed rep).toNat = 128 * long.toNat + 2 * unnamed.toNat + rep.toNat := by
  have happend : (flagsByte long unnamed rep).toNat
      = ((BitVec.ofBool long).toNat * 2 ^ 6 + unnamed.toNat) * 2 ^ 1 + (BitVec.ofBool rep).toNat :=
    (toNat_append_eq_add _ _).trans (congrArg (· * 2 ^ 1 + _) (toNat_append_eq_add _ _))
  rw [happend, BitVec.toNat_ofBool, BitVec.toNat_ofBool]
  omega

theorem toNat_flagsByte_short (unnamed : BitVec 6) (rep : Bool) :
    (flagsByte false unnamed rep).toNat = 2 * unnamed.toNat + rep.toNat := by
  simp [toNat_flagsByte]

/-- Bits 7:5, the fade bit and bits 3:0 (44_wire_fields.md R155). -/
theorem toNat_fadeByte (hi : BitVec 3) (lo : BitVec 4) : (fadeByte (hi ++ lo)).toNat = 32 * hi.toNat + 16 + lo.toNat := by
  have happend : (fadeByte (hi ++ lo)).toNat
      = (((hi ++ lo).extractLsb' 4 3).toNat * 2 ^ 1 + 1) * 2 ^ 4 + ((hi ++ lo).extractLsb' 0 4).toNat :=
    (toNat_append_eq_add _ _).trans (congrArg (· * 2 ^ 4 + _) (toNat_append_eq_add _ _))
  have hhi := hi.isLt
  have hlo := lo.isLt
  rw [happend, BitVec.extractLsb'_toNat, BitVec.extractLsb'_toNat, toNat_append_eq_add, Nat.shiftRight_eq_div_pow,
    Nat.shiftRight_eq_div_pow]
  omega

/-- Settles O52: the command byte, without and with fade. -/
theorem commandRowsSetTheCommand : Obligations.CommandRowsSetTheCommand := by
  unfold Obligations.CommandRowsSetTheCommand
  intro s fade
  cases fade
  · exact ⟨rfl, rfl, rfl⟩
  · exact ⟨rfl, rfl, rfl⟩

/-- Settles O53: the command is the byte's number. -/
theorem fadeRowSetsTheCommand : Obligations.FadeRowSetsTheCommand := by
  unfold Obligations.FadeRowSetsTheCommand
  intro s hi lo
  rw [← toNat_fadeByte]
  rfl

/-- Settles O54: the flags are the byte's number. -/
theorem flagsRowSetsTheFlags : Obligations.FlagsRowSetsTheFlags := by
  unfold Obligations.FlagsRowSetsTheFlags
  intro s long unnamed rep
  rw [← toNat_flagsByte]
  rfl

/-! ### Received bytes in RXBUF -/

theorem received_frame (s : State) (bs : List Byte) :
    received s bs = { s with rxbuf := (received s bs).rxbuf, rxLen := bs.length } := rfl

theorem byte_received (s : State) {bs : List Byte} {k : Nat} (h : k < bs.length) :
    (received s bs).byte .rxbuf k = bs[k] :=
  (byte_congr rfl rfl k).trans (byte_store_zero s .rxbuf bs k h)

theorem bytes_received (s : State) {bs : List Byte} {i n : Nat} (h : i + n ≤ bs.length) :
    (received s bs).bytes .rxbuf i n = (bs.drop i).take n := by
  refine List.ext_getElem (by simp; omega) fun k hk _ => ?_
  have hlt : i + k < bs.length := by
    rw [length_bytes] at hk
    omega
  simp [byte_received s hlt]

theorem sameOutside_received (s : State) (bs : List Byte) : SameOutside s (received s bs) .rxbuf 0 bs.length :=
  fun a ha => (byte_congr rfl rfl a).trans (byte_store_outside s .rxbuf 0 bs a ha)

/-- What DECODE is given is what arrived (10_state.md R22). -/
theorem rxPacket_received (s : State) (bs : List Byte) : rxPacket (received s bs) = bs := by
  have hall : (received s bs).bytes .rxbuf 0 bs.length = (bs.drop 0).take bs.length := bytes_received s (by omega)
  exact hall.trans (by simp)

theorem rxValid_of_rxFrame {s : State} {f : Frame} (h : rxFrame s = some f) : s.rxValid = true := by
  unfold rxFrame at h
  split at h
  · assumption
  · cases h

/-- Bytes that `decode` takes are decoded when they have arrived. -/
theorem decode_received {s : State} {bs : List Byte} {f : Frame} (hc : s.cfg.ok) (hfits : bs.length ≤ s.cfg.rbufSize)
    (hf : frameOfPacket s.cfg.checkOrder true bs = .ok f) :
    ∃ v, exec .decode (received s bs) = .next v ∧ v.rxValid = true ∧ rxFrame v = some f := by
  have hmeets := decodeMeetsTheFunction (received s bs) .decode true (.inl ⟨rfl, rfl⟩) hc hfits
  rw [rxPacket_received] at hmeets
  obtain ⟨hok, -⟩ := hmeets
  obtain ⟨v, hv, -, hframe⟩ := hok f hf
  exact ⟨v, hv, rxValid_of_rxFrame hframe, hframe⟩

/-! ### Packets of format A -/

section
variable (a c : Byte) (u : BitVec 6) (r : Bool) (p0 p1 p2 p3 k : Byte)

theorem length_pktABytes : (pktABytes a c u r p0 p1 p2 p3 k).length = 12 := rfl

theorem exec_pktA {s : State} (hc : s.cfg.ok) :
    exec (.pktA a c u r p0 p1 p2 p3 k) s = .next (received s (pktABytes a c u r p0 p1 p2 p3 k)) := by
  obtain ⟨-, -, -, hr, -⟩ := hc
  exact placeReceived_fits hr

/-- A short packet with a right checksum spells the Frame of its fields (42_decode.md R126). -/
theorem frameOfPacket_pktABytes (order : CheckOrder) (hk : k = xor7 a c (flagsByte false u r) p0 p1 p2 p3) :
    frameOfPacket order true (pktABytes a c u r p0 p1 p2 p3 k)
      = .ok { memberAddress := a.toNat, command := c.toNat, flags := 2 * u.toNat + r.toNat
              payload := [p0, p1, p2, p3], payloadOffset := none } := by
  have hsum : packetSum (pktABytes a c u r p0 p1 p2 p3 k) = at0 (pktABytes a c u r p0 p1 p2 p3 k) 11 :=
    (foldl_xor_eq_xor7 ..).trans hk.symm
  have hlong : (at0 (pktABytes a c u r p0 p1 p2 p3 k) 6).getLsbD 7 = false := getLsbD_seven_flagsByte false u r
  have hflags : (at0 (pktABytes a c u r p0 p1 p2 p3 k) 6).toNat = 2 * u.toNat + r.toNat := toNat_flagsByte_short u r
  rw [frameOfPacket_of_right order true (le_refl 12) hsum (by rw [packetShort, hlong, Bool.false_and]), frameOf, hlong, hflags]
  rfl

end

/-- Settles O55: the bytes that arrived are those of the layout. -/
theorem shortPacketIsPlaced : Obligations.ShortPacketIsPlaced := by
  unfold Obligations.ShortPacketIsPlaced
  intro s a c u r p0 p1 p2 p3 k hc
  have hbytes := length_pktABytes a c u r p0 p1 p2 p3 k
  refine ⟨_, exec_pktA a c u r p0 p1 p2 p3 k hc, received_frame _ _, bytes_received s (by omega), ?_,
    bytes_received s (by omega), sameOutside_received _ _⟩
  rw [byte_received s (k := 6) (by omega)]
  exact toNat_flagsByte_short u r

/-- Settles O57: the bytes spell a Frame, which is decoded. -/
theorem arrivedShortPacketDecodes : Obligations.ArrivedShortPacketDecodes := by
  unfold Obligations.ArrivedShortPacketDecodes
  intro s a c u r p0 p1 p2 p3 k hc hk
  have hfits : (pktABytes a c u r p0 p1 p2 p3 k).length ≤ s.cfg.rbufSize := by
    obtain ⟨-, -, -, hr, -⟩ := hc
    exact hr
  obtain ⟨v, hv⟩ := decode_received hc hfits (frameOfPacket_pktABytes a c u r p0 p1 p2 p3 k s.cfg.checkOrder hk)
  exact ⟨_, v, exec_pktA a c u r p0 p1 p2 p3 k hc, hv⟩

/-! ### Packets of format B -/

section
variable (a c : Byte) (u : BitVec 6) (r : Bool) (off : BitVec 16) (k : Byte) (body : List Byte)

theorem length_pktBBytes : (pktBBytes a c u r off k body).length = 12 + body.length := by
  simp [pktBBytes, marker, le16]
  omega

theorem exec_pktB_fits {s : State} (h : 12 + body.length ≤ s.cfg.rbufSize) :
    exec (.pktB a c u r off k body) s = .next (received s (pktBBytes a c u r off k body)) :=
  placeReceived_fits (by rwa [length_pktBBytes])

theorem exec_pktB_outside {s : State} (h : s.cfg.rbufSize < 12 + body.length) :
    exec (.pktB a c u r off k body) s = .refused (.noSuchByte .rxbuf) :=
  placeReceived_outside (by rwa [length_pktBBytes])

/-- A long packet with a right checksum spells the Frame of its fields and body (42_decode.md R125). -/
theorem frameOfPacket_pktBBytes (order : CheckOrder) (hlen : body.length ≤ 65535)
    (hk : k = xor7 a c (flagsByte true u r) (loByte body.length) (hiByte body.length) (loByte off.toNat) (hiByte off.toNat)) :
    frameOfPacket order true (pktBBytes a c u r off k body)
      = .ok { memberAddress := a.toNat, command := c.toNat, flags := 128 + 2 * u.toNat + r.toNat
              payload := body, payloadOffset := some off.toNat } := by
  have hsum : packetSum (pktBBytes a c u r off k body) = at0 (pktBBytes a c u r off k body) 11 :=
    (foldl_xor_eq_xor7 ..).trans hk.symm
  have hlong : (at0 (pktBBytes a c u r off k body) 6).getLsbD 7 = true := getLsbD_seven_flagsByte true u r
  have hflags : (at0 (pktBBytes a c u r off k body) 6).toNat = 128 + 2 * u.toNat + r.toNat := toNat_flagsByte true u r
  have hlength : (unle16 (at0 (pktBBytes a c u r off k body) 7) (at0 (pktBBytes a c u r off k body) 8)).toNat = body.length :=
    toNat_unle16_le16 hlen
  have hoffset : unle16 (at0 (pktBBytes a c u r off k body) 9) (at0 (pktBBytes a c u r off k body) 10) = off := unle16_le16 off
  have hbody : (pktBBytes a c u r off k body).drop 12 = body := rfl
  have hpresent : packetShort (pktBBytes a c u r off k body) = false := by
    rw [packetShort, hlength, length_pktBBytes]
    simp
  rw [frameOfPacket_of_right order true (by rw [length_pktBBytes]; omega) hsum hpresent, frameOf, hlong, hflags, hlength,
    hoffset, hbody, List.take_length]
  rfl

end

/-- Settles O56: the bytes that arrived are those of the layout, or do not fit. -/
theorem longPacketIsPlaced : Obligations.LongPacketIsPlaced := by
  unfold Obligations.LongPacketIsPlaced
  intro s a c u r off k body hlen
  refine ⟨fun hfits => ?_, exec_pktB_outside a c u r off k body⟩
  have hbytes := length_pktBBytes a c u r off k body
  have hbyte (i : Nat) (hi : i < 12) : (received s (pktBBytes a c u r off k body)).byte .rxbuf i
      = (pktBBytes a c u r off k body)[i] := byte_received s (by omega)
  refine ⟨_, exec_pktB_fits a c u r off k body hfits, ?_, bytes_received s (by omega), ?_, ?_, ?_, ?_, ?_, ?_⟩
  · rw [← hbytes]
    exact received_frame _ _
  · rw [hbyte 6 (by omega)]
    exact toNat_flagsByte true u r
  · rw [hbyte 7 (by omega), hbyte 8 (by omega)]
    exact loByte_add_hiByte hlen
  · rw [hbyte 9 (by omega), hbyte 10 (by omega)]
    exact loByte_add_hiByte (Nat.le_of_lt_succ off.isLt)
  · exact hbyte 11 (by omega)
  · rw [bytes_received s (by omega)]
    exact List.take_length
  · rw [← hbytes]
    exact sameOutside_received _ _

/-- Settles O58: the bytes spell a Frame, which is decoded; a body that fits RXBUF has a 16-bit length. -/
theorem arrivedLongPacketDecodes : Obligations.ArrivedLongPacketDecodes := by
  unfold Obligations.ArrivedLongPacketDecodes
  intro s a c u r off k body hc hfits hk
  have hlen : body.length ≤ 65535 := by
    have hmax := rbufSize_le hc
    omega
  obtain ⟨v, hv⟩ := decode_received hc (by rwa [length_pktBBytes])
    (frameOfPacket_pktBBytes a c u r off k body s.cfg.checkOrder hlen hk)
  exact ⟨_, v, exec_pktB_fits a c u r off k body hfits, hv⟩

end Sys2Proof.Machine
end
